-- ==== Sys2Proof/Word.lean ====
section
/-!
DEFINITION. The word types of the KeeChain FSC: the byte of the wire and of the content buffers, the 32-bit
register word, the 12-bit register index and the 46-bit host transaction (rules R8, R10, R20, R61, R210).
-/
namespace Sys2Proof

/-- A byte of the wire or of a content buffer (R10). -/
abbrev Byte := BitVec 8

/-- A register value, `REG_DATA_BITS` = 32 bits (R8, R61). -/
abbrev Word := BitVec 32

/-- A register index, `REG_INDEX_BITS` = 12 bits; it is not a byte address (R27, R61). -/
abbrev Index := BitVec 12

/-- A host transaction: reg_sel, reg_we, reg_addr, reg_wdata, from bit 45 down to bit 0 (R210). -/
abbrev PortWord := BitVec 46

end Sys2Proof
end

