-- ==== Sys2Proof/Config.lean ====
section
/-!
DEFINITION. The implementation parameters of rule R8. The two that the source leaves open, `P_LEN_BYTES` and
`P_BYTE_ORDER`, are the fields of `Params`, which the machine's state carries unchanged (log entry 1). The
platform's placement of the register file (R70) and the start values of a host program's local variables (R209) are
constants without a body (log entries 14 and 16).
-/
namespace Sys2Proof

/-- The legal values of `P_LEN_BYTES`, the width in bytes of the `content_length` field (R8). -/
inductive LenBytes where
  | two
  | four
  | eight
  deriving DecidableEq, Repr

/-- `P_LEN_BYTES` as a number (R8). -/
def LenBytes.toNat : LenBytes → Nat
  | .two => 2
  | .four => 4
  | .eight => 8

/-- `P_BYTE_ORDER`: the wire order of `content_length` and `checksum` (R8, R65). -/
inductive ByteOrder where
  | big
  | little
  deriving DecidableEq, Repr

/-- The two open parameters of the block (R8). -/
structure Params where
  lenBytes : LenBytes
  byteOrder : ByteOrder
  deriving DecidableEq, Repr

/-- The spec's defaults, `P_LEN_BYTES` = 4 and `P_BYTE_ORDER` = BIG (R8). -/
def Params.default : Params := { lenBytes := .four, byteOrder := .big }

/-- L, the number of bytes of the `content_length` field. -/
def Params.len (p : Params) : Nat := p.lenBytes.toNat

/-- `HLEN` = 7 + L: the header bytes after the marker (R8). -/
def Params.hlen (p : Params) : Nat := 7 + p.len

/-- `FRAME_OVERHEAD` = 9 + L: marker and header (R8). -/
def Params.overhead (p : Params) : Nat := 9 + p.len

namespace Config

/-- `MAGIC` (R8). -/
def magic : BitVec 16 := 0xBABA#16

/-- `MAGIC_B0`, the first wire byte of the marker, under either byte order (R82). -/
def magicB0 : Byte := 0xBA#8

/-- `MAGIC_B1`, the second wire byte of the marker, under either byte order (R82). -/
def magicB1 : Byte := 0xBA#8

/-- `VERSION` (R8, R87). -/
def version : Byte := 0x01#8

/-- `MAX_CONTENT` (R8). -/
def maxContent : Nat := 256

/-- `BUF_SIZE`, the bytes of each content buffer (R8, R62). -/
def bufSize : Nat := 256

/-- The index of CMD (R27, R30). -/
def cmdIndex : Index := 0x200#12

/-- `FSC_BASE`: where the platform puts the register file; the spec fixes no value (R70, D35). -/
opaque fscBase : Nat

/-- The platform's map f from a register index to an address offset; the spec fixes none (R70, D35). -/
opaque fscMap : Index → Nat

/-- The host address of register index i, `FSC_BASE + f(i)` (R70). Nothing inside the block depends on it. -/
def hostAddress (i : Index) : Nat := fscBase + fscMap i

/-- The value a host program's local variable holds before any RD writes it: the spec gives none (log entry 16). -/
opaque localStart : Nat → Word

end Config
end Sys2Proof
end

