-- ==== Sys2Proof/Machine/State.lean ====
section
/-!
DEFINITION. The state of the KeeChain FSC as plain data (10_state.md), with the two byte streams of 20_memory.md and
the inputs of the steps to come (R15, R200), the ways a step can stop, and the state after reset (R49, R250).
-/
namespace Sys2Proof.Machine

/-- The sequencer phase `st.phase`; the encodings 6 and 7 are never reached (R40; log entry 13). -/
inductive Phase where
  /-- No command runs. -/
  | idle
  /-- DECODE, searching for the marker. -/
  | sync
  /-- DECODE, reading the header. -/
  | hdr
  /-- DECODE, reading the content. -/
  | body
  /-- ENCODE, computing the checksum. -/
  | calc
  /-- ENCODE, sending bytes. -/
  | emit
  deriving DecidableEq, Repr

/-- The completion statuses of STATUS.CODE; the values 8 to 15 are never produced (R95; log entry 13). -/
inductive Code where
  | ok
  | timeoutReached
  | crcMismatch
  | contentLengthExceeded
  | malformed
  /-- Code 5, reserved for the upper layer: the block never raises it (R96). -/
  | internalStateCorrupted
  /-- Code 6, reserved for the upper layer: the block never raises it (R96). -/
  | invalidContent
  | illegalCmd
  deriving DecidableEq, Repr

/-- The inputs of one step (R20, R200): `rst`, the host's transaction (R210), the bytes that join the receive channel's
queue just before the step, and `expired`. `rx_valid` and `rx_data` follow from the queue (R21; log entry 3). -/
structure StepIn where
  rst : Bool := false
  port : PortWord := 0#46
  arrive : List Byte := []
  expired : Bool := false
  deriving DecidableEq, Repr

/-- A step in which nothing acts on the block: no reset, no access, no new byte, no deadline. -/
def StepIn.quiet : StepIn := {}

/-- The content buffers as (register index, byte) pairs, indices strictly rising: TXBUF[k] at k and RXBUF[k] at
0x100 + k (R27, R62). An entry that is not listed is never written (R251). -/
abbrev Memory := List Host.Cell

/-- The machine's state. -/
structure State where
  /-- The parameters, constant for the block's life (R8, R32). -/
  params : Params
  /-- `st.phase` (R40). -/
  phase : Phase
  /-- `st.win_n`: the window holds a byte (R41). -/
  winN : Bool
  /-- `st.win_b`: the byte it holds (R41). -/
  winB : Byte
  /-- `st.hidx`: header bytes received (R42). -/
  hidx : BitVec 4
  /-- `st.cnt`: content bytes received or accumulated (R43). -/
  cnt : BitVec 9
  /-- `st.eidx`: frame bytes sent (R44). -/
  eidx : BitVec 9
  /-- `st.acc`, visible as CSUM (R33, R45). -/
  acc : Word
  /-- `st.pos`, visible as CSUM_POS (R33, R45). -/
  pos : BitVec 2
  /-- `st.rxlen`, zero-extended to 64 bits; visible as RX_LEN and RX_LEN_HI (R38, R46; log entry 11). -/
  rxlen : BitVec 64
  /-- STATUS.DONE (R31). -/
  done : Bool
  /-- STATUS.RX_VALID (R31). -/
  rxValid : Bool
  /-- STATUS.OVR (R31). -/
  ovr : Bool
  /-- STATUS.CODE (R31, R48, R95; log entry 19). -/
  code : Code
  /-- TX_META (R34). -/
  txMeta : Byte
  /-- TX_TYPE (R35). -/
  txType : Byte
  /-- TX_LEN (R36). -/
  txLen : Word
  /-- RX_VERSION (R37). -/
  rxVersion : Byte
  /-- RX_META (R37). -/
  rxMeta : Byte
  /-- RX_TYPE (R37). -/
  rxType : Byte
  /-- RX_CSUM (R39). -/
  rxCsum : Word
  /-- TXBUF and RXBUF (R28, R29). -/
  mem : Memory
  /-- The output `rx_take` of the last step (R20). -/
  rxTake : Bool
  /-- The output `tx_valid` of the last step (R20). -/
  txValid : Bool
  /-- The output `tx_data` of the last step (R20). -/
  txData : Byte
  /-- The output `reg_rdata` of the last step (R26). -/
  regRdata : Word
  /-- The receive channel's unconsumed bytes, the next one first (R50, R63). -/
  chan : List Byte
  /-- The transmit stream: every byte sent, the first one first (R22, R64). -/
  sent : List Byte
  /-- The inputs of the steps to come; past its end every step is quiet (log entry 2). -/
  inputs : List StepIn
  deriving DecidableEq, Repr

/-- Why a step stops with a fault. -/
inductive Fault where
  /-- Raised by HOST_RD of a TXBUF or RXBUF entry never written since reset, with its index: the spec calls the use a
  fault of the program and gives the entry no value (R251). Safe: hardware returns some byte and goes on. -/
  | readNeverWritten (i : Index)
  /-- Raised by ENCODE, in CALC or EMIT, reading TXBUF[k] never written since reset (R251). Safe: as above. -/
  | encodeNeverWritten (k : Nat)
  /-- Raised by a CALC, EMIT or BODY step whose content index is above 255. R62 says that the rules never form such an
  index: only states that no run reaches raise this. Safe (log entry 12). -/
  | noSuchEntry (k : Nat)
  deriving DecidableEq, Repr

/-- Why a step is refused. -/
inductive Refusal where
  /-- Raised only by an arm of exec for an instruction without a meaning; safe. No arm of this model answers it. -/
  | notModelled (mnemonic : String)
  deriving DecidableEq, Repr

/-- The state after reset for given parameters: the values of R49, every buffer entry never written (R251), no byte in
either stream and nothing on the inputs. -/
def State.resetOf (p : Params) : State where
  params := p
  phase := .idle
  winN := false
  winB := 0#8
  hidx := 0#4
  cnt := 0#9
  eidx := 0#9
  acc := 0#32
  pos := 0#2
  rxlen := 0#64
  done := false
  rxValid := false
  ovr := false
  code := .ok
  txMeta := 0#8
  txType := 0#8
  txLen := 0#32
  rxVersion := 0#8
  rxMeta := 0#8
  rxType := 0#8
  rxCsum := 0#32
  mem := []
  rxTake := false
  txValid := false
  txData := 0#8
  regRdata := 0#32
  chan := []
  sent := []
  inputs := []

/-- The machine right after reset, `ResetState()` (R49, R250), at the spec's default parameters (log entry 1). -/
def State.reset : State := State.resetOf Params.default

/-- The inputs of the coming step. -/
def State.input (s : State) : StepIn := s.inputs.headD StepIn.quiet

end Sys2Proof.Machine
end

