-- ==== Sys2Proof/Machine/Flags.lean ====
section
/-!
DEFINITION. The status flags, the status code and the two words computed from them: STATUS (R31, R48, R202) and CFG
(R32), and the two outputs that repeat flags (R24).
-/
namespace Sys2Proof.Machine

/-- The encoding of st.phase in STATUS.PHASE (R40). -/
def Phase.bits : Phase → BitVec 3
  | .idle => 0#3
  | .sync => 1#3
  | .hdr => 2#3
  | .body => 3#3
  | .calc => 4#3
  | .emit => 5#3

/-- The number of a completion status in STATUS.CODE (R95). -/
def Code.bits : Code → BitVec 4
  | .ok => 0#4
  | .timeoutReached => 1#4
  | .crcMismatch => 2#4
  | .contentLengthExceeded => 3#4
  | .malformed => 4#4
  | .internalStateCorrupted => 5#4
  | .invalidContent => 6#4
  | .illegalCmd => 7#4

/-- STATUS.BUSY: the phase is not IDLE (R40). -/
def State.busy (s : State) : Bool := s.phase != .idle

/-- ENCODE runs: the phase is CALC or EMIT (R203). -/
def State.encBusy (s : State) : Bool := s.phase == .calc || s.phase == .emit

/-- The output `busy` in the coming step (R24). -/
def State.busyOut (s : State) : Bool := s.busy

/-- The output `done` in the coming step (R24, R223). -/
def State.doneOut (s : State) : Bool := s.done

/-- The STATUS register (R31, R202). -/
def State.status (s : State) : Word :=
  0#21 ++ s.phase.bits ++ s.code.bits ++ BitVec.ofBool s.ovr ++ BitVec.ofBool s.rxValid
    ++ BitVec.ofBool s.done ++ BitVec.ofBool s.busy

/-- The bit of CFG.BYTE_ORDER (R32). -/
def orderBit : ByteOrder → BitVec 1
  | .big => 0#1
  | .little => 1#1

/-- The CFG register (R32). -/
def cfgWord (p : Params) : Word :=
  Config.magic ++ Config.version ++ 0#3 ++ orderBit p.byteOrder ++ BitVec.ofNat 4 p.len

/-- An ignored busy write sets OVR and changes nothing else (R207). -/
def setOvr (s : State) : State := { s with ovr := true }

/-- A write of STATUS with bit 3 = 1 clears OVR; no other bit can be written (R208). -/
def writeStatus (w : Word) (s : State) : State :=
  if w.getLsbD 3 then { s with ovr := false } else s

end Sys2Proof.Machine
end

