-- ==== Sys2Proof/Syntax.lean ====
section
/-!
DEFINITION. The instructions of the KeeChain FSC: one constructor per row of spec/opcode_table.json. The three formats
are the 32-bit command word (R90), the 46-bit host transaction (R210) and the TYPE byte of the wire (R85).
-/
namespace Sys2Proof

/-- One constructor per row of the opcode table. The operands of a command are the fields of its word that the OP does
not fix: reserved bits 7 to 4, ARG and reserved bits 31 to 16 (R90). All are kept, so that no bit of a word is
dropped; R92 says which of them an OP ignores. -/
inductive Instr where
  /-- NOP, OP 0x0 (R205). -/
  | nop (lo : BitVec 4) (arg : Byte) (hi : BitVec 16)
  /-- DECODE, OP 0x1: receive one frame (R150). -/
  | decode (lo : BitVec 4) (arg : Byte) (hi : BitVec 16)
  /-- ENCODE, OP 0x2: send one frame (R180). -/
  | encode (lo : BitVec 4) (arg : Byte) (hi : BitVec 16)
  /-- CSUM_CLEAR, OP 0x3 (R116). -/
  | csumClear (lo : BitVec 4) (arg : Byte) (hi : BitVec 16)
  /-- CSUM_ACC, OP 0x4, the one command that uses ARG (R117). -/
  | csumAcc (lo : BitVec 4) (arg : Byte) (hi : BitVec 16)
  /-- The illegal OP 0x5 (R206). -/
  | illegal5 (lo : BitVec 4) (arg : Byte) (hi : BitVec 16)
  /-- The illegal OP 0x6 (R206). -/
  | illegal6 (lo : BitVec 4) (arg : Byte) (hi : BitVec 16)
  /-- The illegal OP 0x7 (R206). -/
  | illegal7 (lo : BitVec 4) (arg : Byte) (hi : BitVec 16)
  /-- The illegal OP 0x8 (R206). -/
  | illegal8 (lo : BitVec 4) (arg : Byte) (hi : BitVec 16)
  /-- The illegal OP 0x9 (R206). -/
  | illegal9 (lo : BitVec 4) (arg : Byte) (hi : BitVec 16)
  /-- The illegal OP 0xA (R206). -/
  | illegalA (lo : BitVec 4) (arg : Byte) (hi : BitVec 16)
  /-- The illegal OP 0xB (R206). -/
  | illegalB (lo : BitVec 4) (arg : Byte) (hi : BitVec 16)
  /-- The illegal OP 0xC (R206). -/
  | illegalC (lo : BitVec 4) (arg : Byte) (hi : BitVec 16)
  /-- The illegal OP 0xD (R206). -/
  | illegalD (lo : BitVec 4) (arg : Byte) (hi : BitVec 16)
  /-- The illegal OP 0xE (R206). -/
  | illegalE (lo : BitVec 4) (arg : Byte) (hi : BitVec 16)
  /-- The illegal OP 0xF (R206). -/
  | illegalF (lo : BitVec 4) (arg : Byte) (hi : BitVec 16)
  /-- HOST_RD: a register read; the transaction's write-data bits are ignored (R202, R210). -/
  | hostRd (addr : Index) (wdata : Word)
  /-- HOST_WR: a register write (R203, R210). -/
  | hostWr (addr : Index) (wdata : Word)
  /-- SKIP: a step with reg_sel = 0; the other bits are ignored (R209, R210). -/
  | skip (we : BitVec 1) (addr : Index) (wdata : Word)
  /-- The wire TYPE byte 0x00, DISCOVER (R85). -/
  | typeDiscover
  /-- The wire TYPE byte 0x01, ALIVE (R85). -/
  | typeAlive
  /-- The wire TYPE byte 0x02, ACK (R85). -/
  | typeAck
  /-- The wire TYPE byte 0x03, DATA (R85). -/
  | typeData
  /-- The wire TYPE byte 0x04, FIN (R85). -/
  | typeFin
  deriving DecidableEq, Repr

end Sys2Proof
end

