-- ==== Sys2Proof/WellFormed.lean ====
section
/-!
DEFINITION. Which terms of `Instr` are spelled the one way the decoder spells them. Every operand has exactly the width
of its field, so one check is left: a transaction that writes CMD is the command it carries (R30, R201), so the term
`hostWr` at CMD's index is not the canonical spelling of any transaction. Its meaning is defined all the same.
-/
namespace Sys2Proof

/-- The one spelling of a transaction: a write of CMD is spelled as the command in its data (R201). -/
def Instr.wellFormed : Instr → Bool
  | .hostWr addr _ => addr != Config.cmdIndex
  | _ => true

end Sys2Proof
end

