-- ==== Sys2Proof/Decode.lean ====
section
/-!
DEFINITION. The decoder and the encoder, from rules R85, R90, R91 and R210 and the opcode table: the 32-bit command
word, the 46-bit host transaction and the TYPE byte of the wire. Every command word and every transaction decodes; a
TYPE byte without a name in the spec is rejected by name (the block accepts such a byte like any other, R85; it is no
row of the table).
-/
namespace Sys2Proof

/-- An encoded instruction, in the format of its row of the opcode table. -/
inductive Encoded where
  /-- Format CMD: the 32-bit word written to CMD (R90). -/
  | cmd (w : Word)
  /-- Format PORT46: a host transaction (R210). -/
  | port (w : PortWord)
  /-- Format WIRE_TYPE: the TYPE byte of a frame (R85). -/
  | wireType (b : Byte)
  deriving DecidableEq, Repr

/-- Why the decoder rejects: the spec names no type for this TYPE byte (R85). -/
inductive Reject where
  | unnamedType (b : Byte)
  deriving DecidableEq, Repr

/-! ### The fields of a command word (R90) -/

/-- OP, bits 3 to 0. -/
def cmdOp (w : Word) : BitVec 4 := w.extractLsb' 0 4

/-- Reserved bits 7 to 4. -/
def cmdLo (w : Word) : BitVec 4 := w.extractLsb' 4 4

/-- ARG, bits 15 to 8. -/
def cmdArg (w : Word) : Byte := w.extractLsb' 8 8

/-- Reserved bits 31 to 16. -/
def cmdHi (w : Word) : BitVec 16 := w.extractLsb' 16 16

/-- The command word with these fields (R90). -/
def cmdWord (op lo : BitVec 4) (arg : Byte) (hi : BitVec 16) : Word := hi ++ arg ++ lo ++ op

/-! ### The fields of a host transaction (R210) -/

/-- reg_sel, bit 45. -/
def portSel (w : PortWord) : BitVec 1 := w.extractLsb' 45 1

/-- reg_we, bit 44. -/
def portWe (w : PortWord) : BitVec 1 := w.extractLsb' 44 1

/-- reg_addr, bits 43 to 32. -/
def portAddr (w : PortWord) : Index := w.extractLsb' 32 12

/-- reg_wdata, bits 31 to 0. -/
def portData (w : PortWord) : Word := w.extractLsb' 0 32

/-- The transaction with these fields (R210). -/
def portWord (sel we : BitVec 1) (addr : Index) (data : Word) : PortWord := sel ++ we ++ addr ++ data

/-- `WR reg, v` (R210). -/
def portWr (addr : Index) (data : Word) : PortWord := portWord 1#1 1#1 addr data

/-- `RD reg` (R210). -/
def portRd (addr : Index) : PortWord := portWord 1#1 0#1 addr 0#32

/-- `SKIP` with its ignored bits 0 (R210). -/
def portSkip : PortWord := 0#46

/-! ### Decoding -/

/-- The command of a word written to CMD, by OP (R91). -/
def decodeCmd (w : Word) : Instr :=
  match (cmdOp w).toNat with
  | 0x0 => .nop (cmdLo w) (cmdArg w) (cmdHi w)
  | 0x1 => .decode (cmdLo w) (cmdArg w) (cmdHi w)
  | 0x2 => .encode (cmdLo w) (cmdArg w) (cmdHi w)
  | 0x3 => .csumClear (cmdLo w) (cmdArg w) (cmdHi w)
  | 0x4 => .csumAcc (cmdLo w) (cmdArg w) (cmdHi w)
  | 0x5 => .illegal5 (cmdLo w) (cmdArg w) (cmdHi w)
  | 0x6 => .illegal6 (cmdLo w) (cmdArg w) (cmdHi w)
  | 0x7 => .illegal7 (cmdLo w) (cmdArg w) (cmdHi w)
  | 0x8 => .illegal8 (cmdLo w) (cmdArg w) (cmdHi w)
  | 0x9 => .illegal9 (cmdLo w) (cmdArg w) (cmdHi w)
  | 0xA => .illegalA (cmdLo w) (cmdArg w) (cmdHi w)
  | 0xB => .illegalB (cmdLo w) (cmdArg w) (cmdHi w)
  | 0xC => .illegalC (cmdLo w) (cmdArg w) (cmdHi w)
  | 0xD => .illegalD (cmdLo w) (cmdArg w) (cmdHi w)
  | 0xE => .illegalE (cmdLo w) (cmdArg w) (cmdHi w)
  | _ => .illegalF (cmdLo w) (cmdArg w) (cmdHi w)

/-- The instruction of a host transaction (R210): reg_sel = 0 is SKIP, reg_we = 0 is HOST_RD, and a write is HOST_WR,
but for a write of CMD, which is the command in its data (R201). -/
def decodePort (w : PortWord) : Instr :=
  if portSel w = 0#1 then .skip (portWe w) (portAddr w) (portData w)
  else if portWe w = 0#1 then .hostRd (portAddr w) (portData w)
  else if portAddr w = Config.cmdIndex then decodeCmd (portData w)
  else .hostWr (portAddr w) (portData w)

/-- The named TYPE bytes 0x00 to 0x04 (R85). -/
def decodeType (b : Byte) : Except Reject Instr :=
  match b.toNat with
  | 0x00 => .ok .typeDiscover
  | 0x01 => .ok .typeAlive
  | 0x02 => .ok .typeAck
  | 0x03 => .ok .typeData
  | 0x04 => .ok .typeFin
  | _ => .error (.unnamedType b)

/-- The decoder, total on every encoded word of the three formats. -/
def decode : Encoded → Except Reject Instr
  | .cmd w => .ok (decodeCmd w)
  | .port w => .ok (decodePort w)
  | .wireType b => decodeType b

/-! ### Encoding -/

/-- The encoder: the word of each instruction, in its row's format (R85, R90, R91, R210). -/
def encode : Instr → Encoded
  | .nop lo arg hi => .cmd (cmdWord 0x0#4 lo arg hi)
  | .decode lo arg hi => .cmd (cmdWord 0x1#4 lo arg hi)
  | .encode lo arg hi => .cmd (cmdWord 0x2#4 lo arg hi)
  | .csumClear lo arg hi => .cmd (cmdWord 0x3#4 lo arg hi)
  | .csumAcc lo arg hi => .cmd (cmdWord 0x4#4 lo arg hi)
  | .illegal5 lo arg hi => .cmd (cmdWord 0x5#4 lo arg hi)
  | .illegal6 lo arg hi => .cmd (cmdWord 0x6#4 lo arg hi)
  | .illegal7 lo arg hi => .cmd (cmdWord 0x7#4 lo arg hi)
  | .illegal8 lo arg hi => .cmd (cmdWord 0x8#4 lo arg hi)
  | .illegal9 lo arg hi => .cmd (cmdWord 0x9#4 lo arg hi)
  | .illegalA lo arg hi => .cmd (cmdWord 0xA#4 lo arg hi)
  | .illegalB lo arg hi => .cmd (cmdWord 0xB#4 lo arg hi)
  | .illegalC lo arg hi => .cmd (cmdWord 0xC#4 lo arg hi)
  | .illegalD lo arg hi => .cmd (cmdWord 0xD#4 lo arg hi)
  | .illegalE lo arg hi => .cmd (cmdWord 0xE#4 lo arg hi)
  | .illegalF lo arg hi => .cmd (cmdWord 0xF#4 lo arg hi)
  | .hostRd addr wdata => .port (portWord 1#1 0#1 addr wdata)
  | .hostWr addr wdata => .port (portWord 1#1 1#1 addr wdata)
  | .skip we addr wdata => .port (portWord 0#1 we addr wdata)
  | .typeDiscover => .wireType 0x00#8
  | .typeAlive => .wireType 0x01#8
  | .typeAck => .wireType 0x02#8
  | .typeData => .wireType 0x03#8
  | .typeFin => .wireType 0x04#8

/-- The host transaction that presents an encoded word to the block: a command word is carried by a write of CMD (R90);
a TYPE byte is carried by the receive channel, not by a transaction. -/
def Encoded.asPort : Encoded → Option PortWord
  | .cmd w => some (portWr Config.cmdIndex w)
  | .port w => some w
  | .wireType _ => none

/-! ### The words of the opcode table, by their number of bits -/

/-- A table word of `nbits` bits in the table's format of that width: WIRE_TYPE has 8 bits, CMD 32 and PORT46 46. Eight
bits that are no named TYPE byte are the low bits of a CMD word, whose OP the table fixes in bits 3 to 0 (log entry 9). -/
def tableEncoded (nbits w : Nat) : Encoded :=
  if nbits ≤ 8 then
    match decodeType (BitVec.ofNat 8 w) with
    | .ok _ => .wireType (BitVec.ofNat 8 w)
    | .error _ => .cmd (BitVec.ofNat 32 w)
  else if nbits ≤ 32 then .cmd (BitVec.ofNat 32 w)
  else .port (BitVec.ofNat 46 w)

/-- What the decoder reads from a word of the opcode table, numbered as the table numbers its bits. -/
def decodeTableWord (nbits w : Nat) : Option Instr :=
  match decode (tableEncoded nbits w) with
  | .ok i => some i
  | .error _ => none

end Sys2Proof
end

