-- ==== Sys2Proof/Machine/Operands.lean ====
section
/-!
DEFINITION. The operand forms: a register named by its index (R27), a byte of a multi-byte wire field in wire order
(R13, R83), and the layout of a frame (R80, R81).
-/
namespace Sys2Proof.Machine

/-- The registers of the index map (R27). -/
inductive Reg where
  | txbuf (k : BitVec 8)
  | rxbuf (k : BitVec 8)
  | cmd
  | status
  | cfg
  | csum
  | csumPos
  | txMeta
  | txType
  | txLen
  | rxVersion
  | rxMeta
  | rxType
  | rxLen
  | rxLenHi
  | rxCsum
  | reserved
  deriving DecidableEq, Repr

/-- The register at an index (R27; 0x20E to 0xFFF are reserved, R94). -/
def regAt (i : Index) : Reg :=
  if i.toNat ≤ 0x0FF then .txbuf (i.setWidth 8)
  else if i.toNat ≤ 0x1FF then .rxbuf (i.setWidth 8)
  else
    match i.toNat with
    | 0x200 => .cmd
    | 0x201 => .status
    | 0x202 => .cfg
    | 0x203 => .csum
    | 0x204 => .csumPos
    | 0x205 => .txMeta
    | 0x206 => .txType
    | 0x207 => .txLen
    | 0x208 => .rxVersion
    | 0x209 => .rxMeta
    | 0x20A => .rxType
    | 0x20B => .rxLen
    | 0x20C => .rxLenHi
    | 0x20D => .rxCsum
    | _ => .reserved

/-- The register index of TXBUF[k] (R28). -/
def txIndex (k : Nat) : Nat := k

/-- The register index of RXBUF[k] (R29). -/
def rxIndex (k : Nat) : Nat := 0x100 + k

/-! ### Multi-byte wire fields -/

/-- Which byte of a W-byte value, counted from its least significant byte, is byte j in wire order (R13). -/
def bytePos (order : ByteOrder) (W j : Nat) : Nat :=
  match order with
  | .big => W - 1 - j
  | .little => j

/-- Byte j, in wire order, of the W-byte field with value v (R13). -/
def fieldByte (order : ByteOrder) (W : Nat) {n : Nat} (v : BitVec n) (j : Nat) : Byte :=
  v.extractLsb' (8 * bytePos order W j) 8

/-- `Field(v, W, order)`: the W bytes of v in wire order (R13). -/
def field (order : ByteOrder) (W : Nat) {n : Nat} (v : BitVec n) : List Byte :=
  (List.range W).map (fieldByte order W v)

/-- v with its byte j, in wire order, replaced by b; its other bits are not touched (R83). A W-byte field has no byte
j ≥ W. -/
def placeByte (order : ByteOrder) (W j : Nat) (b : Byte) {n : Nat} (v : BitVec n) : BitVec n :=
  if j < W then
    (v &&& ~~~((0xFF#n) <<< (8 * bytePos order W j))) ||| (b.setWidth n <<< (8 * bytePos order W j))
  else v

/-! ### The frame (R80) -/

/-- The frame of R80: marker, VERSION, METADATA, TYPE, CONTENT_LENGTH, CHECKSUM, CONTENT, in wire order. -/
def wireFrame (p : Params) (version metadata type : Byte) (len : BitVec 64) (csum : Word) (content : List Byte) :
    List Byte :=
  [Config.magicB0, Config.magicB1, version, metadata, type]
    ++ field p.byteOrder p.len len ++ field p.byteOrder 4 csum ++ content

/-- The HLEN header bytes that follow the marker in a frame (R81). -/
def wireHeader (p : Params) (version metadata type : Byte) (len : BitVec 64) (csum : Word) : List Byte :=
  [version, metadata, type] ++ field p.byteOrder p.len len ++ field p.byteOrder 4 csum

/-- What each header position holds (R81). -/
inductive HdrField where
  | version
  | metadata
  | type
  /-- Byte j of CONTENT_LENGTH, in wire order. -/
  | len (j : Nat)
  /-- Byte j of CHECKSUM, in wire order. -/
  | csum (j : Nat)
  deriving DecidableEq, Repr

/-- The field at header position h (R81, R152). -/
def hdrField (p : Params) (h : Nat) : HdrField :=
  if h = 0 then .version
  else if h = 1 then .metadata
  else if h = 2 then .type
  else if h ≤ 2 + p.len then .len (h - 3)
  else .csum (h - 3 - p.len)

/-! ### The checksum function (R110) -/

/-- The checksum of content bytes of which the first has position i: the XOR of zext_32(c) shifted left by the
position modulo 4. -/
def csumFrom (i : Nat) : List Byte → Word
  | [] => 0#32
  | b :: c => (b.setWidth 32 <<< (i % 4)) ^^^ csumFrom (i + 1) c

/-- CSUM(c) (R110). -/
def csum (c : List Byte) : Word := csumFrom 0 c

end Sys2Proof.Machine
end

