-- ==== Sys2Proof/Machine/Ops.lean ====
section
/-!
DEFINITION. The named operations over the state: the content buffers (R12, R62, R251), the two byte streams (R12, R21,
R22), the accumulator (R111), the end of a command `Finish`, which is the block's analogue of taking an exception
(R221; R226 gives no return from it), reset (R250), and the frame of one step (R201).
-/
namespace Sys2Proof.Machine

/-! ### The content buffers -/

/-- What a buffer entry reads as that no write has reached since reset: no value (R251). -/
def Memory.unlisted : Option Byte := none

/-- The byte at a register index of the buffers, if it was written (R251). -/
def Memory.read : Memory → Nat → Option Byte
  | [], _ => Memory.unlisted
  | (a, b) :: m, i => if i = a then some b else Memory.read m i

/-- The buffers with the byte at an index written; the indices stay strictly rising. -/
def Memory.write : Memory → Nat → Byte → Memory
  | [], i, v => [(i, v)]
  | (a, b) :: m, i, v =>
    if i < a then (i, v) :: (a, b) :: m
    else if i = a then (i, v) :: m
    else (a, b) :: Memory.write m i v

/-- The indices are strictly rising, from lo on, and below 0x200. -/
def Memory.wfFrom (lo : Nat) : Memory → Bool
  | [] => true
  | (a, _) :: m => decide (lo ≤ a) && decide (a < 0x200) && Memory.wfFrom (a + 1) m

/-- The canonical form of the buffers' memory. -/
def Memory.wf (m : Memory) : Bool := Memory.wfFrom 0 m

/-- `MemRead(TXBUF, k, 1)` by ENCODE (R12); a never-written entry is a fault (R251). -/
def readTx (s : State) (k : Nat) : Except Fault Byte :=
  if k < Config.bufSize then
    match s.mem.read (txIndex k) with
    | some b => .ok b
    | none => .error (.encodeNeverWritten k)
  else .error (.noSuchEntry k)

/-- `MemWrite(TXBUF, k, 1, b)` by HOST_WR (R12, R203). -/
def writeTx (k : BitVec 8) (b : Byte) (s : State) : State :=
  { s with mem := s.mem.write (txIndex k.toNat) b }

/-- RXBUF[k] holds b. -/
def storeRx (k : Nat) (b : Byte) (s : State) : State := { s with mem := s.mem.write (rxIndex k) b }

/-- `MemWrite(RXBUF, k, 1, b)` by the BODY phase (R12, R154). -/
def writeRx (k : Nat) (b : Byte) (s : State) : Except Fault State :=
  if k < Config.bufSize then .ok (storeRx k b s) else .error (.noSuchEntry k)

/-! ### The byte streams -/

/-- `RxTake()`: the head of the channel is consumed, leaving rest (R12, R21). -/
def takeByte (rest : List Byte) (s : State) : State := { s with chan := rest, rxTake := true }

/-- The byte the receive port presents is c, in place of the head of the channel (R21). -/
def present (c : Byte) (s : State) : State := { s with chan := c :: s.chan.drop 1 }

/-- `TxEmit(b)` (R12, R22). -/
def txEmit (b : Byte) (s : State) : State := { s with sent := s.sent ++ [b], txValid := true, txData := b }

/-! ### The accumulator -/

/-- `AccByte(b)` (R111). -/
def accByte (b : Byte) (s : State) : State :=
  { s with acc := s.acc ^^^ (b.setWidth 32 <<< s.pos.toNat), pos := s.pos + 1#2 }

/-- `AccClear()` (R111). -/
def accClear (s : State) : State := { s with acc := 0#32, pos := 0#2 }

/-! ### The counters -/

/-- One more header byte was received (R42). -/
def countHeader (s : State) : State := { s with hidx := s.hidx + 1#4 }

/-- One more content byte was received or accumulated (R43). -/
def countContent (s : State) : State := { s with cnt := s.cnt + 1#9 }

/-- One more frame byte was sent (R44). -/
def countSent (s : State) : State := { s with eidx := s.eidx + 1#9 }

/-! ### Ending a command -/

/-- `Finish(code)`, what `raise` means in every rule: the status is recorded, DONE is set and the sequencer is idle
again; nothing else is written (R221). -/
def finish (c : Code) (s : State) : State := { s with code := c, done := true, phase := .idle }

/-! ### One step -/

/-- A step with `rst` = 1: the block takes its reset state. No byte is consumed, so the channel keeps its bytes and the
bytes that arrive; the bytes already sent stay sent; CFG does not change (R32, R250, R252; log entry 4). -/
def resetStep (s : State) : State :=
  { State.resetOf s.params with
    chan := s.chan ++ s.input.arrive
    sent := s.sent
    inputs := s.inputs.tail }

/-- The state in which a step without reset acts: the outputs at the values of R201's first line, the arriving bytes in
the channel, this step's inputs used up. -/
def beginStep (s : State) : State :=
  { s with
    rxTake := false
    txValid := false
    txData := 0#8
    regRdata := 0#32
    chan := s.chan ++ s.input.arrive
    inputs := s.inputs.tail }

/-- R201: reset overrides everything (R224); otherwise `act` runs on the inputs of the step and the state at its start,
and a fault of the program ends the run. -/
def inStep (act : StepIn → State → Except Fault State) (s : State) : Host.Outcome State Fault Refusal :=
  if s.input.rst then .next (resetStep s)
  else
    match act s.input (beginStep s) with
    | .ok t => .next t
    | .error f => .fault f

end Sys2Proof.Machine
end

