-- ==== Sys2Proof/Machine/Sequencer.lean ====
section
/-!
DEFINITION. The sequencer: the step of each phase of DECODE (SYNC, HDR, BODY) and of ENCODE (CALC, EMIT), from rules
R131, R151 to R155, R181, R183 and R184.
-/
namespace Sys2Proof.Machine

/-- A step of SYNC, HDR or BODY (R131, R151, R154, R157): the deadline first, then a byte if one is presented, else the
step waits. -/
def rxStep (onByte : Byte → State → Except Fault State) (inp : StepIn) (s : State) : Except Fault State :=
  if inp.expired then .ok (finish .timeoutReached s)
  else
    match s.chan with
    | [] => .ok s
    | b :: rest => onByte b (takeByte rest s)

/-! ### DECODE -/

/-- What SYNC does with a byte (R131): on the marker the window is cleared and the header follows, else the window
holds this byte. -/
def syncByte (b : Byte) (s : State) : State :=
  if s.winN && s.winB == Config.magicB0 && b == Config.magicB1 then
    { s with winN := false, winB := 0#8, hidx := 0#4, phase := .hdr }
  else { s with winN := true, winB := b }

/-- `PlaceHeaderByte(h, b)` (R152). -/
def placeHeaderByte (h : Nat) (b : Byte) (s : State) : State :=
  match hdrField s.params h with
  | .version => { s with rxVersion := b }
  | .metadata => { s with rxMeta := b }
  | .type => { s with rxType := b }
  | .len j => { s with rxlen := placeByte s.params.byteOrder s.params.len j b s.rxlen }
  | .csum j => { s with rxCsum := placeByte s.params.byteOrder 4 j b s.rxCsum }

/-- The content follows (R153). -/
def startBody (s : State) : State := { s with cnt := 0#9, phase := .body }

/-- `CheckLength()` (R153). -/
def checkLength (s : State) : State :=
  if s.rxlen = 0#64 then finish .malformed s
  else if Config.maxContent < s.rxlen.toNat then finish .contentLengthExceeded s
  else startBody s

/-- What HDR does with a byte (R151). -/
def hdrByte (b : Byte) (s : State) : State :=
  if s.hidx.toNat = s.params.hlen - 1 then checkLength (placeHeaderByte s.hidx.toNat b s)
  else countHeader (placeHeaderByte s.hidx.toNat b s)

/-- A whole, checked frame was received: OK, with RX_VALID set (R155). -/
def acceptFrame (s : State) : State := finish .ok { s with rxValid := true }

/-- `CompareChecksum(acc_new)` on the state whose accumulator is acc_new (R155). -/
def compareChecksum (s : State) : State := if s.acc = s.rxCsum then acceptFrame s else finish .crcMismatch s

/-- What BODY does with a byte (R154). -/
def bodyByte (b : Byte) (s : State) : Except Fault State :=
  match writeRx s.cnt.toNat b s with
  | .error f => .error f
  | .ok t =>
    if s.cnt.toNat + 1 = s.rxlen.toNat then .ok (compareChecksum (countContent (accByte b t)))
    else .ok (countContent (accByte b t))

/-- `SyncStep()` (R131). -/
def syncStep (inp : StepIn) (s : State) : Except Fault State := rxStep (fun b t => .ok (syncByte b t)) inp s

/-- `HdrStep()` (R151). -/
def hdrStep (inp : StepIn) (s : State) : Except Fault State := rxStep (fun b t => .ok (hdrByte b t)) inp s

/-- `BodyStep()` (R154). -/
def bodyStep (inp : StepIn) (s : State) : Except Fault State := rxStep bodyByte inp s

/-! ### ENCODE -/

/-- The frame is sent next (R181). -/
def startEmit (s : State) : State := { s with eidx := 0#9, phase := .emit }

/-- `CalcStep()` (R181). -/
def calcStep (s : State) : Except Fault State :=
  match readTx s s.cnt.toNat with
  | .error f => .error f
  | .ok b =>
    if s.cnt.toNat + 1 = s.txLen.toNat then .ok (startEmit (countContent (accByte b s)))
    else .ok (countContent (accByte b s))

/-- `FrameByte(e)` (R184). -/
def frameByte (s : State) (e : Nat) : Except Fault Byte :=
  if e = 0 then .ok Config.magicB0
  else if e = 1 then .ok Config.magicB1
  else if e = 2 then .ok Config.version
  else if e = 3 then .ok s.txMeta
  else if e = 4 then .ok s.txType
  else if e ≤ 4 + s.params.len then .ok (fieldByte s.params.byteOrder s.params.len (s.txLen.setWidth 64) (e - 5))
  else if e ≤ 8 + s.params.len then .ok (fieldByte s.params.byteOrder 4 s.acc (e - 5 - s.params.len))
  else readTx s (e - 9 - s.params.len)

/-- `EmitStep()` (R183). -/
def emitStep (s : State) : Except Fault State :=
  match frameByte s s.eidx.toNat with
  | .error f => .error f
  | .ok b =>
    if s.eidx.toNat + 1 = s.params.overhead + s.txLen.toNat then .ok (finish .ok (countSent (txEmit b s)))
    else .ok (countSent (txEmit b s))

/-- The sequencer's action in a step, by the phase at its start (R201). In IDLE it acts only on a write of CMD. -/
def phaseStep (inp : StepIn) (s : State) : Except Fault State :=
  match s.phase with
  | .idle => .ok s
  | .sync => syncStep inp s
  | .hdr => hdrStep inp s
  | .body => bodyStep inp s
  | .calc => calcStep s
  | .emit => emitStep s

end Sys2Proof.Machine
end

