-- ==== Sys2Proof/Machine/Access.lean ====
section
/-!
DEFINITION. The host's register accesses and the start step of each command: `HostRead` (R202), `HostWrite` (R203),
`Dispatch` (R204) and what each command does in the step of its CMD write (R116, R117, R150, R180, R205, R206).
-/
namespace Sys2Proof.Machine

/-! ### Register reads and writes -/

/-- A buffer entry as a register value; a never-written entry is a fault (R202, R251). -/
def readBuffer (s : State) (i : Index) : Except Fault Word :=
  match s.mem.read i.toNat with
  | some b => .ok (b.setWidth 32)
  | none => .error (.readNeverWritten i)

/-- `HostRead(S, i)` (R202). -/
def hostRead (s : State) (i : Index) : Except Fault Word :=
  match regAt i with
  | .txbuf _ => readBuffer s i
  | .rxbuf _ => readBuffer s i
  | .cmd => .ok 0#32
  | .status => .ok s.status
  | .cfg => .ok (cfgWord s.params)
  | .csum => .ok s.acc
  | .csumPos => .ok (s.pos.setWidth 32)
  | .txMeta => .ok (s.txMeta.setWidth 32)
  | .txType => .ok (s.txType.setWidth 32)
  | .txLen => .ok s.txLen
  | .rxVersion => .ok (s.rxVersion.setWidth 32)
  | .rxMeta => .ok (s.rxMeta.setWidth 32)
  | .rxType => .ok (s.rxType.setWidth 32)
  | .rxLen => .ok (s.rxlen.extractLsb' 0 32)
  | .rxLenHi => .ok (s.rxlen.extractLsb' 32 32)
  | .rxCsum => .ok s.rxCsum
  | .reserved => .ok 0#32

/-- A write of a TX register or of TXBUF: dropped, with OVR set, while ENCODE runs (R203, R207). -/
def txWrite (encBusy : Bool) (put : State → State) (t : State) : State := if encBusy then setOvr t else put t

/-- `HostWrite(S, i, w)` (R203), for a write that is not dispatched: `encBusy` says whether the phase at the start of
the step is CALC or EMIT, and t is the state the sequencer's action leaves. -/
def hostWrite (encBusy : Bool) (i : Index) (w : Word) (t : State) : State :=
  match regAt i with
  | .txbuf k => txWrite encBusy (writeTx k (w.setWidth 8)) t
  | .txMeta => txWrite encBusy (fun u => { u with txMeta := w.setWidth 8 }) t
  | .txType => txWrite encBusy (fun u => { u with txType := w.setWidth 8 }) t
  | .txLen => txWrite encBusy (fun u => { u with txLen := w }) t
  | .cmd => setOvr t
  | .status => writeStatus w t
  | .rxbuf _ => t
  | .cfg => t
  | .csum => t
  | .csumPos => t
  | .rxVersion => t
  | .rxMeta => t
  | .rxType => t
  | .rxLen => t
  | .rxLenHi => t
  | .rxCsum => t
  | .reserved => t

/-! ### The commands in the step of their CMD write, from IDLE -/

/-- `Nop()` (R205). -/
def nopStart (s : State) : State := s

/-- `DecodeStart()` (R150). CODE is cleared as R150 says, where R48 lets only `Finish` write it (log entry 19). -/
def decodeStart (s : State) : State :=
  { accClear s with
    winN := false, winB := 0#8
    hidx := 0#4, cnt := 0#9, rxlen := 0#64
    rxVersion := 0#8, rxMeta := 0#8, rxType := 0#8, rxCsum := 0#32
    done := false, rxValid := false, code := .ok
    phase := .sync }

/-- `EncodeStart()` (R180). CODE is cleared as R180 says, where R48 lets only `Finish` write it (log entry 19). -/
def encodeStart (s : State) : State :=
  if Config.maxContent < s.txLen.toNat then finish .contentLengthExceeded s
  else
    { accClear s with
      cnt := 0#9, eidx := 0#9
      done := false, code := .ok
      phase := if s.txLen = 0#32 then .emit else .calc }

/-- `CsumClear()` (R116). -/
def csumClearStart (s : State) : State := finish .ok (accClear s)

/-- `CsumAcc(b)` (R117). -/
def csumAccStart (b : Byte) (s : State) : State := finish .ok (accByte b s)

/-- `Illegal()` (R206). -/
def illegalStart (s : State) : State := finish .illegalCmd s

/-- `Dispatch(w)` (R204). -/
def dispatch (w : Word) (s : State) : State :=
  match (cmdOp w).toNat with
  | 0x0 => nopStart s
  | 0x1 => decodeStart s
  | 0x2 => encodeStart s
  | 0x3 => csumClearStart s
  | 0x4 => csumAccStart (cmdArg w) s
  | _ => illegalStart s

/-! ### Whole steps, by the host's transaction -/

/-- A step without a host access (R201). -/
def skipStep (s : State) : Host.Outcome State Fault Refusal := inStep phaseStep s

/-- A step with a register read: the value read is that of the start of the step (R26, R201). -/
def readStep (i : Index) (s : State) : Host.Outcome State Fault Refusal :=
  inStep (fun inp b =>
    match hostRead b i with
    | .error f => .error f
    | .ok v =>
      match phaseStep inp b with
      | .error f => .error f
      | .ok t => .ok { t with regRdata := v }) s

/-- A step with a register write that goes to `HostWrite` (R201). -/
def writeStep (i : Index) (w : Word) (s : State) : Host.Outcome State Fault Refusal :=
  inStep (fun inp b =>
    match phaseStep inp b with
    | .error f => .error f
    | .ok t => .ok (hostWrite b.encBusy i w t)) s

/-- A step with a write of CMD: dispatched in IDLE (R204), otherwise dropped with OVR set while the running command
goes on (R207). -/
def commandStep (start : State → State) (s : State) : Host.Outcome State Fault Refusal :=
  inStep (fun inp b =>
    match b.phase with
    | .idle => .ok (start b)
    | _ =>
      match phaseStep inp b with
      | .error f => .error f
      | .ok t => .ok (setOvr t)) s

/-- A step without a host access in which the byte the receive port presents is c (R21). Where c already heads the
channel this is `skipStep` (log entry 8). -/
def presentStep (c : Byte) (s : State) : Host.Outcome State Fault Refusal :=
  inStep (fun inp b => phaseStep inp (present c b)) s

end Sys2Proof.Machine
end

