-- ==== Sys2Proof/Machine/Checksum.lean ====
section
/-!
DEFINITION. The checksum family: CSUM_CLEAR (R116) and CSUM_ACC (R117).
-/
namespace Sys2Proof.Machine

/-- CSUM_CLEAR (R116). -/
def execCsumClear (s : State) : Host.Outcome State Fault Refusal := commandStep csumClearStart s

/-- CSUM_ACC with the byte ARG (R117). -/
def execCsumAcc (arg : Byte) (s : State) : Host.Outcome State Fault Refusal := commandStep (csumAccStart arg) s

end Sys2Proof.Machine
end

