-- ==== Sys2Proof/Machine/Codec.lean ====
section
/-!
DEFINITION. The codec family: the start steps of DECODE (R150) and ENCODE (R180). The steps that follow are the
sequencer's (Machine/Sequencer.lean), whatever the host does in them.
-/
namespace Sys2Proof.Machine

/-- DECODE (R150). -/
def execDecode (s : State) : Host.Outcome State Fault Refusal := commandStep decodeStart s

/-- ENCODE (R180). -/
def execEncode (s : State) : Host.Outcome State Fault Refusal := commandStep encodeStart s

end Sys2Proof.Machine
end

