-- ==== Sys2Proof/Machine/Control.lean ====
section
/-!
DEFINITION. The control family: NOP (R205) and the illegal commands ILLEGAL_5 to ILLEGAL_F (R206). Each meaning is the
whole step of the CMD write; in a step whose phase is not IDLE the write is dropped (R207).
-/
namespace Sys2Proof.Machine

/-- NOP (R205): no state changes. -/
def execNop (s : State) : Host.Outcome State Fault Refusal := commandStep nopStart s

/-- OP 0x5: ends at once with ILLEGAL_CMD (R206). -/
def execIllegal5 (s : State) : Host.Outcome State Fault Refusal := commandStep illegalStart s

/-- OP 0x6: ends at once with ILLEGAL_CMD (R206). -/
def execIllegal6 (s : State) : Host.Outcome State Fault Refusal := commandStep illegalStart s

/-- OP 0x7: ends at once with ILLEGAL_CMD (R206). -/
def execIllegal7 (s : State) : Host.Outcome State Fault Refusal := commandStep illegalStart s

/-- OP 0x8: ends at once with ILLEGAL_CMD (R206). -/
def execIllegal8 (s : State) : Host.Outcome State Fault Refusal := commandStep illegalStart s

/-- OP 0x9: ends at once with ILLEGAL_CMD (R206). -/
def execIllegal9 (s : State) : Host.Outcome State Fault Refusal := commandStep illegalStart s

/-- OP 0xA: ends at once with ILLEGAL_CMD (R206). -/
def execIllegalA (s : State) : Host.Outcome State Fault Refusal := commandStep illegalStart s

/-- OP 0xB: ends at once with ILLEGAL_CMD (R206). -/
def execIllegalB (s : State) : Host.Outcome State Fault Refusal := commandStep illegalStart s

/-- OP 0xC: ends at once with ILLEGAL_CMD (R206). -/
def execIllegalC (s : State) : Host.Outcome State Fault Refusal := commandStep illegalStart s

/-- OP 0xD: ends at once with ILLEGAL_CMD (R206). -/
def execIllegalD (s : State) : Host.Outcome State Fault Refusal := commandStep illegalStart s

/-- OP 0xE: ends at once with ILLEGAL_CMD (R206). -/
def execIllegalE (s : State) : Host.Outcome State Fault Refusal := commandStep illegalStart s

/-- OP 0xF: ends at once with ILLEGAL_CMD (R206). -/
def execIllegalF (s : State) : Host.Outcome State Fault Refusal := commandStep illegalStart s

end Sys2Proof.Machine
end

