-- ==== Sys2Proof/Machine/HostPort.lean ====
section
/-!
DEFINITION. The host transactions HOST_RD (R202), HOST_WR (R203) and SKIP (R209, R210).
-/
namespace Sys2Proof.Machine

/-- HOST_RD (R202). -/
def execHostRd (addr : Index) (s : State) : Host.Outcome State Fault Refusal := readStep addr s

/-- HOST_WR (R203); a write of CMD goes to Dispatch while IDLE (R201, R204). -/
def execHostWr (addr : Index) (wdata : Word) (s : State) : Host.Outcome State Fault Refusal :=
  if addr = Config.cmdIndex then commandStep (dispatch wdata) s else writeStep addr wdata s

/-- SKIP: one step with reg_sel = 0 (R209). -/
def execSkip (s : State) : Host.Outcome State Fault Refusal := skipStep s

end Sys2Proof.Machine
end

