-- ==== Sys2Proof/Machine/WireType.lean ====
section
/-!
DEFINITION. The TYPE bytes of the wire (R85): a step in which the receive port presents that byte. At header position 2
it is stored in RX_TYPE and nothing is checked (R85, R152, R160); elsewhere it is a byte like any other.
-/
namespace Sys2Proof.Machine

/-- The byte 0x00, DISCOVER, on the receive port (R85). -/
def execTypeDiscover (s : State) : Host.Outcome State Fault Refusal := presentStep 0x00#8 s

/-- The byte 0x01, ALIVE, on the receive port (R85). -/
def execTypeAlive (s : State) : Host.Outcome State Fault Refusal := presentStep 0x01#8 s

/-- The byte 0x02, ACK, on the receive port (R85). -/
def execTypeAck (s : State) : Host.Outcome State Fault Refusal := presentStep 0x02#8 s

/-- The byte 0x03, DATA, on the receive port (R85). -/
def execTypeData (s : State) : Host.Outcome State Fault Refusal := presentStep 0x03#8 s

/-- The byte 0x04, FIN, on the receive port (R85). -/
def execTypeFin (s : State) : Host.Outcome State Fault Refusal := presentStep 0x04#8 s

end Sys2Proof.Machine
end

