-- ==== Sys2Proof/Machine/Dispatch.lean ====
section
/-!
DEFINITION. The meaning of every instruction: the whole step of the block in which it stands on the host port or on the
receive port. The bits of a command word that R92 says are ignored, and those of a transaction that R210 says are
ignored, are not passed on.
-/
namespace Sys2Proof.Machine

def exec (i : Instr) (s : State) : Host.Outcome State Fault Refusal :=
  match i with
  | .nop _ _ _ => Sys2Proof.Machine.execNop s
  | .decode _ _ _ => Sys2Proof.Machine.execDecode s
  | .encode _ _ _ => Sys2Proof.Machine.execEncode s
  | .csumClear _ _ _ => Sys2Proof.Machine.execCsumClear s
  | .csumAcc _ arg _ => Sys2Proof.Machine.execCsumAcc arg s
  | .illegal5 _ _ _ => Sys2Proof.Machine.execIllegal5 s
  | .illegal6 _ _ _ => Sys2Proof.Machine.execIllegal6 s
  | .illegal7 _ _ _ => Sys2Proof.Machine.execIllegal7 s
  | .illegal8 _ _ _ => Sys2Proof.Machine.execIllegal8 s
  | .illegal9 _ _ _ => Sys2Proof.Machine.execIllegal9 s
  | .illegalA _ _ _ => Sys2Proof.Machine.execIllegalA s
  | .illegalB _ _ _ => Sys2Proof.Machine.execIllegalB s
  | .illegalC _ _ _ => Sys2Proof.Machine.execIllegalC s
  | .illegalD _ _ _ => Sys2Proof.Machine.execIllegalD s
  | .illegalE _ _ _ => Sys2Proof.Machine.execIllegalE s
  | .illegalF _ _ _ => Sys2Proof.Machine.execIllegalF s
  | .hostRd addr _ => Sys2Proof.Machine.execHostRd addr s
  | .hostWr addr wdata => Sys2Proof.Machine.execHostWr addr wdata s
  | .skip _ _ _ => Sys2Proof.Machine.execSkip s
  | .typeDiscover => Sys2Proof.Machine.execTypeDiscover s
  | .typeAlive => Sys2Proof.Machine.execTypeAlive s
  | .typeAck => Sys2Proof.Machine.execTypeAck s
  | .typeData => Sys2Proof.Machine.execTypeData s
  | .typeFin => Sys2Proof.Machine.execTypeFin s

end Sys2Proof.Machine
end

