-- ==== Sys2Proof/Machine/Fetch.lean ====
section
/-!
DEFINITION. Where a step finds its instruction (log entries 5, 6 and 8). The block has no program and fetches nothing
(R60, R200): the instruction of a step is the host transaction on its port, or, in a step without an access, the named
TYPE byte that the HDR phase is about to take at header position 2.
-/
namespace Sys2Proof.Machine

/-- The receive channel's queue as the step sees it: the bytes left over, then those that arrive (R21, R63). -/
def State.arrived (s : State) : List Byte := s.chan ++ s.input.arrive

/-- The TYPE byte the coming step takes at header position 2 (R81, R151, R157), if it takes one. -/
def typeTaken (s : State) : Option Byte :=
  if s.phase = .hdr && s.hidx = 2#4 && !s.input.expired && !s.input.rst then s.arrived.head? else none

/-- The instruction of the coming step. -/
def fetch (s : State) : Instr :=
  match decodePort s.input.port with
  | .skip we addr wdata =>
    match typeTaken s with
    | some b =>
      match decodeType b with
      | .ok i => i
      | .error _ => .skip we addr wdata
    | none => .skip we addr wdata
  | i => i

/-- s with w as the host transaction of its coming step. -/
def drivePort (w : PortWord) (s : State) : State := { s with inputs := { s.input with port := w } :: s.inputs.tail }

/-- s with w as the host transaction of its coming step, which is no reset step. -/
def setPort (w : PortWord) (s : State) : State :=
  { s with inputs := { s.input with rst := false, port := w } :: s.inputs.tail }

/-- The state in which the coming step takes b as the TYPE byte: header position 2, b at the head of the channel, no
access and no deadline (log entry 8). -/
def setType (b : Byte) (s : State) : State :=
  { s with
    phase := .hdr
    hidx := 2#4
    chan := b :: s.chan.drop 1
    inputs := { s.input with rst := false, port := portSkip, expired := false } :: s.inputs.tail }

/-- The state whose coming step runs an encoded instruction. -/
def placeEncoded (e : Encoded) (s : State) : State :=
  match e with
  | .cmd w => setPort (portWr Config.cmdIndex w) s
  | .port w => setPort w s
  | .wireType b => setType b s

end Sys2Proof.Machine
end

