-- ==== Sys2Proof/Machine/Step.lean ====
section
/-!
DEFINITION. The step: one rising edge of the clock (R200, R201) runs the instruction that stands on the block's ports.
-/
namespace Sys2Proof.Machine

/-- One step of the block (R200, R201). -/
def step (s : State) : Host.Outcome State Fault Refusal := exec (fetch s) s

/-- s with the table's word w of nbits bits as the instruction of its next step (log entry 9). -/
def State.withFetchWord (s : State) (nbits w : Nat) : State := placeEncoded (tableEncoded nbits w) s

end Sys2Proof.Machine
end

