-- ==== Sys2Proof/Machine/HostProgram.lean ====
section
/-!
DEFINITION. The host as the agent that drives the register port (R15): the host-program notation of rules R209 to R212,
its pseudo-instructions, and a host that runs such a program against the block. Host-local instructions take no step of
the block (R209). The block itself is `step`; nothing here adds to it (log entry 16).
-/
namespace Sys2Proof.Machine

/-- An instruction of a host program (R209). Labels are positions in the program, a local variable rN is its number. -/
inductive HostInstr where
  /-- `WR reg, imm32`. -/
  | wr (reg : Index) (imm : Word)
  /-- `RD reg -> rN`. -/
  | rd (reg : Index) (n : Nat)
  /-- `SKIP`. -/
  | skip
  /-- `BR rN & imm == imm2, label`. -/
  | brEq (n : Nat) (mask value : Word) (target : Nat)
  /-- `BR rN & imm != imm2, label`. -/
  | brNe (n : Nat) (mask value : Word) (target : Nat)
  /-- `JMP label`. -/
  | jmp (target : Nat)
  /-- `HALT`. -/
  | halt
  deriving DecidableEq, Repr

/-- A host running a program against the block. -/
structure HostRun where
  /-- The program. -/
  prog : List HostInstr
  /-- The position of its next instruction. -/
  pc : Nat
  /-- The local variables written so far. -/
  locals : List (Nat × Word)
  /-- The host's pace (R209), for the coming step and those after it: true lets the step pass without an access. Past
  the end of the list the host makes a transaction in each step (log entry 16). -/
  pauses : List Bool
  /-- The block. -/
  block : State
  deriving DecidableEq, Repr

/-- The local variable rN; before any RD writes it the spec gives it no value (log entry 16). -/
def localValue (locals : List (Nat × Word)) (n : Nat) : Word := (locals.lookup n).getD (Config.localStart n)

/-- What a host does in a step of the block. -/
inductive HostMove where
  /-- It makes a transaction, keeps the value read in a local variable if it is an RD, and goes on at pc. -/
  | access (w : PortWord) (dest : Option Nat) (pc : Nat)
  /-- Its program has ended. -/
  | halted
  /-- It runs host-local instructions for ever and makes no access. -/
  | spins
  deriving DecidableEq, Repr

/-- The host's next move: host-local instructions are run, at most `fuel` of them, up to a transaction (R209). -/
def nextMove (prog : List HostInstr) (locals : List (Nat × Word)) : Nat → Nat → HostMove
  | 0, _ => .spins
  | fuel + 1, pc =>
    match prog[pc]? with
    | none => .halted
    | some .halt => .halted
    | some (.wr reg imm) => .access (portWr reg imm) none (pc + 1)
    | some (.rd reg n) => .access (portRd reg) (some n) (pc + 1)
    | some .skip => .access portSkip none (pc + 1)
    | some (.jmp target) => nextMove prog locals fuel target
    | some (.brEq n mask value target) =>
      if localValue locals n &&& mask = value then nextMove prog locals fuel target
      else nextMove prog locals fuel (pc + 1)
    | some (.brNe n mask value target) =>
      if localValue locals n &&& mask = value then nextMove prog locals fuel (pc + 1)
      else nextMove prog locals fuel target

/-- The host's move at the start of a step. Local variables change only in transactions, so a host that has run more
host-local instructions than its program has positions repeats them for ever. -/
def HostRun.move (r : HostRun) : HostMove := nextMove r.prog r.locals (r.prog.length + 1) r.pc

/-- The host after a step of the block to t: it goes on at pc, and keeps the value read in its local variable `dest`. -/
def HostRun.after (r : HostRun) (dest : Option Nat) (pc : Nat) (t : State) : HostRun :=
  { r with
    pc := pc
    locals := match dest with
      | none => r.locals
      | some n => (n, t.regRdata) :: r.locals
    pauses := r.pauses.tail
    block := t }

/-- One step of the block in which the host drives the transaction w, and then goes on at pc. -/
def HostRun.transact (r : HostRun) (w : PortWord) (dest : Option Nat) (pc : Nat) : Host.Outcome HostRun Fault Refusal :=
  match Machine.step (drivePort w r.block) with
  | .next t => .next (r.after dest pc t)
  | .fault f => .fault f
  | .refused e => .refused e

/-- One step of the block in which the host makes no access and its program stays where it is. -/
def HostRun.pause (r : HostRun) : Host.Outcome HostRun Fault Refusal := r.transact portSkip none r.pc

/-- The host lets the coming step pass without an access (R209). -/
def HostRun.pausing (r : HostRun) : Bool := r.pauses.headD false

/-- One step of the block under the host's program; `none` once the program has ended (R209, R212). -/
def HostRun.step (r : HostRun) : Option (Host.Outcome HostRun Fault Refusal) :=
  match r.move with
  | .halted => none
  | .spins => some r.pause
  | .access w dest pc => if r.pausing then some r.pause else some (r.transact w dest pc)

/-- n steps of the block under the host's program: the host's state then, if the program has not ended and nothing has
stopped the run before. -/
def HostRun.steps : Nat → HostRun → Option HostRun
  | 0, r => some r
  | n + 1, r =>
    match r.step with
    | some (.next r') => HostRun.steps n r'
    | _ => none

/-! ### Pseudo-instructions (R211); `base` is the position of the expansion's first instruction -/

/-- `CMD op`. -/
def pseudoCmd (op : BitVec 4) : List HostInstr := [.wr Config.cmdIndex (op.setWidth 32)]

/-- `CMD op, arg`. -/
def pseudoCmdArg (op : BitVec 4) (arg : Byte) : List HostInstr :=
  [.wr Config.cmdIndex ((arg.setWidth 32 <<< 8) ||| op.setWidth 32)]

/-- `WAIT_DONE` with the host temporary rT. -/
def waitDone (base rT : Nat) : List HostInstr := [.rd 0x201#12 rT, .brEq rT 0x2#32 0x0#32 base]

/-- `WAIT_IDLE` with the host temporary rT. -/
def waitIdle (base rT : Nat) : List HostInstr := [.rd 0x201#12 rT, .brNe rT 0x1#32 0x0#32 base]

/-- `LOADTX k, b0, b1, ..., bm`. -/
def loadTx (k : Nat) : List Byte → List HostInstr
  | [] => []
  | b :: c => .wr (BitVec.ofNat 12 k) (b.setWidth 32) :: loadTx (k + 1) c

/-- `SEND meta, type, n`. -/
def pseudoSend (base rT : Nat) (metadata type n : Word) : List HostInstr :=
  [.wr 0x205#12 metadata, .wr 0x206#12 type, .wr 0x207#12 n] ++ pseudoCmd 0x2#4 ++ waitDone (base + 4) rT

/-- `RECV`. -/
def pseudoRecv (base rT : Nat) : List HostInstr := pseudoCmd 0x1#4 ++ waitDone (base + 1) rT

end Sys2Proof.Machine
end

