-- ==== Sys2Proof/Safety.lean ====
section
/-!
DEFINITION. The terms the statements use: what an instruction leaves unchanged, group by group; what a buffer holds; the
invariant of every run; inputs that leave the block alone; and the marker in a byte stream.
-/
namespace Sys2Proof.Machine

/-! ### What stays the same from one state to the next -/

/-- The sequencer's state: phase, window and counters (R40 to R44). -/
def SameSequencer (s t : State) : Prop :=
  t.phase = s.phase ∧ t.winN = s.winN ∧ t.winB = s.winB ∧ t.hidx = s.hidx ∧ t.cnt = s.cnt ∧ t.eidx = s.eidx

/-- The accumulator (R45). -/
def SameChecksum (s t : State) : Prop := t.acc = s.acc ∧ t.pos = s.pos

/-- The flags and the status code (R48), BUSY apart, which follows the phase. -/
def SameFlags (s t : State) : Prop := t.done = s.done ∧ t.rxValid = s.rxValid ∧ t.ovr = s.ovr ∧ t.code = s.code

/-- TX_META, TX_TYPE and TX_LEN (R34 to R36). -/
def SameTx (s t : State) : Prop := t.txMeta = s.txMeta ∧ t.txType = s.txType ∧ t.txLen = s.txLen

/-- The RX registers (R37 to R39). -/
def SameRx (s t : State) : Prop :=
  t.rxVersion = s.rxVersion ∧ t.rxMeta = s.rxMeta ∧ t.rxType = s.rxType ∧ t.rxlen = s.rxlen ∧ t.rxCsum = s.rxCsum

/-- Every entry of both buffers (R28, R29), read at its register index. -/
def SameMem (s t : State) : Prop := ∀ a, t.mem.read a = s.mem.read a

/-- Nothing was consumed or sent: the channel holds what it held and what arrived (R21, R22). -/
def SameStreams (s t : State) : Prop := t.chan = s.arrived ∧ t.sent = s.sent

/-- The outputs of a step that drives none of them (R201). -/
def NoOutputs (t : State) : Prop := t.rxTake = false ∧ t.txValid = false ∧ t.txData = 0#8 ∧ t.regRdata = 0#32

/-- The parameters stay and the step's inputs are used up. -/
def Advanced (s t : State) : Prop := t.params = s.params ∧ t.inputs = s.inputs.tail

/-- A step in which nothing happens: every piece of state stays, nothing is consumed or sent, no output is driven. -/
def Unchanged (s t : State) : Prop :=
  SameSequencer s t ∧ SameChecksum s t ∧ SameFlags s t ∧ SameTx s t ∧ SameRx s t ∧ SameMem s t ∧ SameStreams s t ∧
    NoOutputs t ∧ Advanced s t

/-- The coming step is no reset step. -/
def Runs (s : State) : Prop := s.input.rst = false

/-- A DECODE runs: the phase is SYNC, HDR or BODY. -/
def State.decoding (s : State) : Bool := s.phase == .sync || s.phase == .hdr || s.phase == .body

/-- SKIP with its ignored bits 0 (R210). -/
def skipInstr : Instr := .skip 0#1 0#12 0#32

/-- An outcome with its next state, if it has one, changed by f. -/
def mapNext (f : State → State) (o : Host.Outcome State Fault Refusal) : Host.Outcome State Fault Refusal :=
  match o with
  | .next t => .next (f t)
  | .fault e => .fault e
  | .refused e => .refused e

/-! ### Buffers and the invariant -/

/-- The buffer entries from index k = 0 on, at the register indices `at_ k`, hold the bytes bs. -/
def Holds (m : Memory) (at_ : Nat → Nat) (bs : List Byte) : Prop := ∀ k, k < bs.length → m.read (at_ k) = bs[k]?

/-- The accumulator holds the checksum of exactly the bytes c (R112). -/
def Accumulated (s : State) (c : List Byte) : Prop := s.acc = csum c ∧ s.pos.toNat = c.length % 4

/-- What holds in every state of every run: the memory's canonical form; the ranges of the accumulator (R113), the
received length (R46) and the counters (R42 to R44, R47); the flags of a running command (R150, R180; its CODE: log entry 19); the codes the
block raises (R96); the accumulator during BODY, CALC and EMIT (R112); and a whole, checked frame behind RX_VALID
(R155, R159). -/
structure Inv (s : State) : Prop where
  memWf : s.mem.wf = true
  accRange : s.acc.toNat < 0x800
  rxlenRange : s.rxlen.toNat < 2 ^ (8 * s.params.len)
  emptyWindow : s.winN = false → s.winB = 0#8
  codeRaised : s.code ≠ .internalStateCorrupted ∧ s.code ≠ .invalidContent
  busyFlags : s.busy = true → s.done = false ∧ s.code = .ok
  decodeFlags : s.decoding = true → s.rxValid = false
  inSync : s.phase = .sync → s.acc = 0#32 ∧ s.pos = 0#2
  inHdr : s.phase = .hdr → s.hidx.toNat < s.params.hlen ∧ s.winN = false ∧ s.acc = 0#32 ∧ s.pos = 0#2
  inBody : s.phase = .body → s.rxlen.toNat ≤ Config.maxContent ∧ s.cnt.toNat < s.rxlen.toNat ∧
    ∃ c, c.length = s.cnt.toNat ∧ Holds s.mem rxIndex c ∧ Accumulated s c
  inCalc : s.phase = .calc → s.txLen.toNat ≤ Config.maxContent ∧ s.cnt.toNat < s.txLen.toNat ∧
    ∃ c, c.length = s.cnt.toNat ∧ Holds s.mem txIndex c ∧ Accumulated s c
  inEmit : s.phase = .emit → s.txLen.toNat ≤ Config.maxContent ∧ s.eidx.toNat < s.params.overhead + s.txLen.toNat ∧
    ∃ c, c.length = s.txLen.toNat ∧ Holds s.mem txIndex c ∧ Accumulated s c
  validFrame : s.rxValid = true → ∃ c, c.length = s.rxlen.toNat ∧ 1 ≤ c.length ∧ c.length ≤ Config.maxContent ∧
    Holds s.mem rxIndex c ∧ csum c = s.rxCsum

/-! ### Inputs and streams -/

/-- The inputs of a step in which the host writes w to CMD and nothing else happens. -/
def cmdInput (w : Word) : StepIn := { port := portWr Config.cmdIndex w }

/-- The command word of CSUM_ACC with the byte b, as R211's `CMD 0x4, b` writes it. -/
def accWord (b : Byte) : Word := cmdWord 0x4#4 0#4 b 0#16

/-- The inputs of a step in which the host at most polls STATUS: no reset, no deadline, no new byte. -/
def StepIn.poll (i : StepIn) : Prop :=
  i.rst = false ∧ i.expired = false ∧ i.arrive = [] ∧ (i.port = portSkip ∨ i.port = portRd 0x201#12)

/-- The marker 0xBA 0xBA stands somewhere in the bytes (R82). -/
def hasMarker : List Byte → Bool
  | a :: b :: l => (a == Config.magicB0 && b == Config.magicB1) || hasMarker (b :: l)
  | _ => false

/-- The bytes the window holds (R41). -/
def State.window (s : State) : List Byte := if s.winN then [s.winB] else []

end Sys2Proof.Machine
end

