-- ==== Sys2Proof/Certificates/Slice0/Obligations.lean ====
section
/-!
DEFINITION. The statements about the KeeChain FSC, from the numbered rules of the spec. A statement about an instruction
says its whole frame by the groups of Safety.lean: what it lists as `Same...` is unchanged, and every field that is in no
group it lists is given its value.
-/
open Sys2Proof Sys2Proof.Machine

/-! ### Reset -/

/-- R49: the reset value of every piece of state, for every choice of the parameters, with no buffer entry written. -/
def Obligations.ResetStateValues : Prop :=
  ∀ p : Params,
    (State.resetOf p).params = p ∧ (State.resetOf p).phase = .idle ∧ (State.resetOf p).winN = false ∧
    (State.resetOf p).winB = 0x00#8 ∧ (State.resetOf p).hidx = 0#4 ∧ (State.resetOf p).cnt = 0#9 ∧
    (State.resetOf p).eidx = 0#9 ∧ (State.resetOf p).acc = 0x00000000#32 ∧ (State.resetOf p).pos = 0#2 ∧
    (State.resetOf p).rxlen = 0#64 ∧ (State.resetOf p).status = 0x00000000#32 ∧ (State.resetOf p).busy = false ∧
    (State.resetOf p).done = false ∧ (State.resetOf p).rxValid = false ∧ (State.resetOf p).ovr = false ∧
    (State.resetOf p).code = .ok ∧ (State.resetOf p).txMeta = 0x00#8 ∧ (State.resetOf p).txType = 0x00#8 ∧
    (State.resetOf p).txLen = 0x00000000#32 ∧ (State.resetOf p).rxVersion = 0#8 ∧ (State.resetOf p).rxMeta = 0#8 ∧
    (State.resetOf p).rxType = 0#8 ∧ (State.resetOf p).rxCsum = 0#32 ∧
    (∀ a, (State.resetOf p).mem.read a = none) ∧ NoOutputs (State.resetOf p) ∧
    (State.resetOf p).busyOut = false ∧ (State.resetOf p).doneOut = false

/-- R250, R252: a step with rst = 1 gives the reset state whatever the instruction and the deadline are; the bytes not
consumed stay in the channel, the bytes sent stay sent, and CFG does not change. -/
def Obligations.ResetStepOverridesEverything : Prop :=
  ∀ (i : Instr) (s : State), s.input.rst = true →
    ∃ t, exec i s = .next t ∧ SameSequencer (State.resetOf s.params) t ∧ SameChecksum (State.resetOf s.params) t ∧
      SameFlags (State.resetOf s.params) t ∧ SameTx (State.resetOf s.params) t ∧ SameRx (State.resetOf s.params) t ∧
      (∀ a, t.mem.read a = none) ∧ SameStreams s t ∧ NoOutputs t ∧ Advanced s t

/-! ### Commands in the step of their CMD write -/

/-- R205: NOP changes nothing; its operand bits are ignored; written while a command runs it only sets OVR. -/
def Obligations.NopDoesNothing : Prop :=
  ∀ (lo : BitVec 4) (arg : Byte) (hi : BitVec 16) (s : State), Runs s →
    (s.phase = .idle → ∃ t, exec (.nop lo arg hi) s = .next t ∧ Unchanged s t ∧ t.status = s.status) ∧
    (s.phase ≠ .idle → exec (.nop lo arg hi) s = mapNext setOvr (exec skipInstr s)) ∧
    (∀ w, cmdOp w = 0x0#4 → decodeCmd w = .nop (cmdLo w) (cmdArg w) (cmdHi w)) ∧
    decodeCmd 0x00000000#32 = .nop 0x0#4 0x00#8 0x0000#16 ∧ decodeCmd 0xFFFF00F0#32 = .nop 0xF#4 0x00#8 0xFFFF#16

/-- R116: CSUM_CLEAR clears the accumulator and ends OK at once. -/
def Obligations.CsumClearZeroesAccumulator : Prop :=
  ∀ (lo : BitVec 4) (arg : Byte) (hi : BitVec 16) (s : State), Runs s →
    (s.phase = .idle → ∃ t, exec (.csumClear lo arg hi) s = .next t ∧ t.acc = 0x00000000#32 ∧ t.pos = 0#2 ∧
      t.done = true ∧ t.code = .ok ∧ t.busy = false ∧ t.rxValid = s.rxValid ∧ t.ovr = s.ovr ∧ SameSequencer s t ∧
      SameTx s t ∧ SameRx s t ∧ SameMem s t ∧ SameStreams s t ∧ NoOutputs t ∧ Advanced s t) ∧
    (s.phase ≠ .idle → exec (.csumClear lo arg hi) s = mapNext setOvr (exec skipInstr s)) ∧
    (∀ w, cmdOp w = 0x3#4 → decodeCmd w = .csumClear (cmdLo w) (cmdArg w) (cmdHi w))

/-- R117: CSUM_ACC accumulates its byte at the position of the counter, which advances modulo 4, and ends OK at once. -/
def Obligations.CsumAccAccumulatesByte : Prop :=
  ∀ (lo : BitVec 4) (arg : Byte) (hi : BitVec 16) (s : State), Runs s →
    (s.phase = .idle → ∃ t, exec (.csumAcc lo arg hi) s = .next t ∧
      t.acc = s.acc ^^^ (arg.setWidth 32 <<< s.pos.toNat) ∧ t.pos.toNat = (s.pos.toNat + 1) % 4 ∧
      t.done = true ∧ t.code = .ok ∧ t.busy = false ∧ t.rxValid = s.rxValid ∧ t.ovr = s.ovr ∧ SameSequencer s t ∧
      SameTx s t ∧ SameRx s t ∧ SameMem s t ∧ SameStreams s t ∧ NoOutputs t ∧ Advanced s t) ∧
    (s.phase ≠ .idle → exec (.csumAcc lo arg hi) s = mapNext setOvr (exec skipInstr s)) ∧
    (∀ w, cmdOp w = 0x4#4 → decodeCmd w = .csumAcc (cmdLo w) (cmdArg w) (cmdHi w))

/-- R206: every OP from 0x5 to 0xF ends at once with ILLEGAL_CMD and changes nothing else. -/
def Obligations.IllegalCommandsEndAtOnce : Prop :=
  ∀ (lo : BitVec 4) (arg : Byte) (hi : BitVec 16) (s : State), Runs s →
    (∀ i ∈ [Instr.illegal5 lo arg hi, .illegal6 lo arg hi, .illegal7 lo arg hi, .illegal8 lo arg hi,
        .illegal9 lo arg hi, .illegalA lo arg hi, .illegalB lo arg hi, .illegalC lo arg hi, .illegalD lo arg hi,
        .illegalE lo arg hi, .illegalF lo arg hi],
      (s.phase = .idle → ∃ t, exec i s = .next t ∧ t.done = true ∧ t.code = .illegalCmd ∧ t.busy = false ∧
        t.rxValid = s.rxValid ∧ t.ovr = s.ovr ∧ SameSequencer s t ∧ SameChecksum s t ∧ SameTx s t ∧ SameRx s t ∧
        SameMem s t ∧ SameStreams s t ∧ NoOutputs t ∧ Advanced s t) ∧
      (s.phase ≠ .idle → exec i s = mapNext setOvr (exec skipInstr s))) ∧
    (∀ w, 0x5 ≤ (cmdOp w).toNat → decodeCmd w ∈
      [Instr.illegal5 (cmdLo w) (cmdArg w) (cmdHi w), .illegal6 (cmdLo w) (cmdArg w) (cmdHi w),
       .illegal7 (cmdLo w) (cmdArg w) (cmdHi w), .illegal8 (cmdLo w) (cmdArg w) (cmdHi w),
       .illegal9 (cmdLo w) (cmdArg w) (cmdHi w), .illegalA (cmdLo w) (cmdArg w) (cmdHi w),
       .illegalB (cmdLo w) (cmdArg w) (cmdHi w), .illegalC (cmdLo w) (cmdArg w) (cmdHi w),
       .illegalD (cmdLo w) (cmdArg w) (cmdHi w), .illegalE (cmdLo w) (cmdArg w) (cmdHi w),
       .illegalF (cmdLo w) (cmdArg w) (cmdHi w)])

/-- R150, the start step of DECODE: a fresh window, cleared RX registers and accumulator, phase SYNC; no byte is
consumed and the deadline is not sampled. That CODE is cleared, as R150 says against R48's words, is the model's choice
between the two (log entry 19). -/
def Obligations.DecodeStartsSearch : Prop :=
  ∀ (lo : BitVec 4) (arg : Byte) (hi : BitVec 16) (s : State), Runs s → s.phase = .idle →
    ∃ t, exec (.decode lo arg hi) s = .next t ∧ t.phase = .sync ∧ t.busy = true ∧ t.winN = false ∧ t.winB = 0x00#8 ∧
      t.hidx = 0#4 ∧ t.cnt = 0#9 ∧ t.eidx = s.eidx ∧ t.rxlen = 0#64 ∧ t.rxVersion = 0#8 ∧ t.rxMeta = 0#8 ∧
      t.rxType = 0#8 ∧ t.rxCsum = 0#32 ∧ t.acc = 0#32 ∧ t.pos = 0#2 ∧ t.done = false ∧ t.rxValid = false ∧
      t.code = .ok ∧ t.ovr = s.ovr ∧ SameTx s t ∧ SameMem s t ∧ SameStreams s t ∧ NoOutputs t ∧ Advanced s t

/-- R180, the start step of ENCODE with TX_LEN of at most 256: the accumulator is cleared and CALC begins, or EMIT for
a length of 0; RX_VALID and the received frame stay. That CODE is cleared, as R180 says against R48's words, is the
model's choice between the two (log entry 19). -/
def Obligations.EncodeStartsFrame : Prop :=
  ∀ (lo : BitVec 4) (arg : Byte) (hi : BitVec 16) (s : State), Runs s → s.phase = .idle → s.txLen.toNat ≤ 256 →
    ∃ t, exec (.encode lo arg hi) s = .next t ∧ t.phase = (if s.txLen = 0#32 then .emit else .calc) ∧ t.busy = true ∧
      t.acc = 0#32 ∧ t.pos = 0#2 ∧ t.cnt = 0#9 ∧ t.eidx = 0#9 ∧ t.hidx = s.hidx ∧ t.winN = s.winN ∧ t.winB = s.winB ∧
      t.done = false ∧ t.code = .ok ∧ t.rxValid = s.rxValid ∧ t.ovr = s.ovr ∧ SameTx s t ∧ SameRx s t ∧ SameMem s t ∧
      SameStreams s t ∧ NoOutputs t ∧ Advanced s t

/-- R180, R118: ENCODE with TX_LEN above 256 ends at once with CONTENT_LENGTH_EXCEEDED; no byte is sent and the
accumulator is unchanged. -/
def Obligations.EncodeRejectsLongLength : Prop :=
  ∀ (lo : BitVec 4) (arg : Byte) (hi : BitVec 16) (s : State), Runs s → s.phase = .idle → 256 < s.txLen.toNat →
    ∃ t, exec (.encode lo arg hi) s = .next t ∧ t.done = true ∧ t.code = .contentLengthExceeded ∧ t.busy = false ∧
      t.rxValid = s.rxValid ∧ t.ovr = s.ovr ∧ SameSequencer s t ∧ SameChecksum s t ∧ SameTx s t ∧ SameRx s t ∧
      SameMem s t ∧ SameStreams s t ∧ NoOutputs t ∧ Advanced s t

/-- R201, R204: a host write of CMD is the command its word holds, in every phase. -/
def Obligations.CmdWriteIsItsCommand : Prop :=
  ∀ (w : Word) (s : State), exec (.hostWr Config.cmdIndex w) s = exec (decodeCmd w) s

/-- R92: two command words with the same OP, and the same ARG for CSUM_ACC, issue the same command. -/
def Obligations.IgnoredCommandBits : Prop :=
  ∀ (w w' : Word) (s : State), cmdOp w = cmdOp w' → (cmdOp w = 0x4#4 → cmdArg w = cmdArg w') →
    exec (decodeCmd w) s = exec (decodeCmd w') s

/-- R207: a command while the phase is not IDLE, and a write of TXBUF, TX_META, TX_TYPE or TX_LEN while ENCODE runs,
set OVR and change nothing else: the step is the one without the access. OVR is cleared only by a write of STATUS with
bit 3 = 1 or by reset. While ENCODE runs no step changes what it sends. -/
def Obligations.BusyWritesOnlySetOvr : Prop :=
  (∀ (w : Word) (s : State), Runs s → s.phase ≠ .idle →
    exec (decodeCmd w) s = mapNext setOvr (exec skipInstr s)) ∧
  (∀ (a : Index) (w : Word) (s : State), Runs s → s.encBusy = true →
    a.toNat < 0x100 ∨ a = 0x205#12 ∨ a = 0x206#12 ∨ a = 0x207#12 →
    exec (.hostWr a w) s = mapNext setOvr (exec skipInstr s)) ∧
  (∀ (i : Instr) (s t : State), s.ovr = true → exec i s = .next t → t.ovr = false →
    s.input.rst = true ∨ ∃ w : Word, w.getLsbD 3 = true ∧ i = .hostWr 0x201#12 w) ∧
  (∀ (i : Instr) (s t : State), Runs s → s.encBusy = true → exec i s = .next t →
    SameTx s t ∧ ∀ a, a < 0x100 → t.mem.read a = s.mem.read a)

/-! ### Host accesses -/

/-- R209, R210: a step with no access leaves an idle block as it is. -/
def Obligations.SkipLeavesIdleBlock : Prop :=
  ∀ (we : BitVec 1) (a : Index) (wd : Word) (s : State), Runs s → s.phase = .idle →
    ∃ t, exec (.skip we a wd) s = .next t ∧ Unchanged s t

/-- R202, R26, R27: what a read of an idle block returns, for every index but a never-written buffer entry; nothing
else changes. -/
def Obligations.ReadReturnsRegister : Prop :=
  ∀ (a : Index) (wd v : Word) (s : State), Runs s → s.phase = .idle →
    ((∃ b : Byte, a.toNat < 0x200 ∧ s.mem.read a.toNat = some b ∧ v = b.setWidth 32) ∨
      (a = 0x200#12 ∧ v = 0#32) ∨ (a = 0x201#12 ∧ v = s.status) ∨ (a = 0x202#12 ∧ v = cfgWord s.params) ∨
      (a = 0x203#12 ∧ v = s.acc) ∨ (a = 0x204#12 ∧ v = s.pos.setWidth 32) ∨
      (a = 0x205#12 ∧ v = s.txMeta.setWidth 32) ∨ (a = 0x206#12 ∧ v = s.txType.setWidth 32) ∨
      (a = 0x207#12 ∧ v = s.txLen) ∨ (a = 0x208#12 ∧ v = s.rxVersion.setWidth 32) ∨
      (a = 0x209#12 ∧ v = s.rxMeta.setWidth 32) ∨ (a = 0x20A#12 ∧ v = s.rxType.setWidth 32) ∨
      (a = 0x20B#12 ∧ v = s.rxlen.extractLsb' 0 32) ∨ (a = 0x20C#12 ∧ v = s.rxlen.extractLsb' 32 32) ∨
      (a = 0x20D#12 ∧ v = s.rxCsum) ∨ (0x20E ≤ a.toNat ∧ v = 0#32)) →
    ∃ t, exec (.hostRd a wd) s = .next t ∧ t.regRdata = v ∧ t.rxTake = false ∧ t.txValid = false ∧ t.txData = 0#8 ∧
      SameSequencer s t ∧ SameChecksum s t ∧ SameFlags s t ∧ SameTx s t ∧ SameRx s t ∧ SameMem s t ∧
      SameStreams s t ∧ Advanced s t

/-- R69, R26, R71: in every phase a read changes nothing but the read data, whose value is that of the register at the
start of the step. -/
def Obligations.ReadHasNoSideEffect : Prop :=
  ∀ (a : Index) (wd : Word) (s t : State), Runs s → exec skipInstr s = .next t →
    (∀ v, hostRead s a = .ok v → exec (.hostRd a wd) s = .next { t with regRdata := v }) ∧
    (∀ u, exec (.hostRd a wd) s = .next u → ∃ v, hostRead s a = .ok v ∧ u = { t with regRdata := v })

/-- R251: a read of a buffer entry never written, and an ENCODE step that reads one, are faults. Where one step does
both, the first clause names the host's read: the model's choice, in the order of R201's pseudocode (log entry 10). -/
def Obligations.NeverWrittenEntriesFault : Prop :=
  (∀ (a : Index) (wd : Word) (s : State), Runs s → a.toNat < 0x200 → s.mem.read a.toNat = none →
    exec (.hostRd a wd) s = .fault (.readNeverWritten a)) ∧
  (∀ s : State, Runs s → s.phase = .calc → s.cnt.toNat < 256 → s.mem.read s.cnt.toNat = none →
    exec skipInstr s = .fault (.encodeNeverWritten s.cnt.toNat)) ∧
  (∀ (s : State) (k : Nat), Runs s → s.phase = .emit → s.eidx.toNat = 9 + s.params.len + k → k < 256 →
    s.mem.read k = none → exec skipInstr s = .fault (.encodeNeverWritten k))

/-- R203, R28, R34 to R36: what a write does in each phase, beside the step without the access: a TX write stores when
no ENCODE runs, a write of STATUS clears OVR, and nothing else changes. -/
def Obligations.WriteEffectInEveryPhase : Prop :=
  ∀ (a : Index) (w : Word) (s t : State), Runs s → exec skipInstr s = .next t → a ≠ 0x200#12 →
    ∃ u, exec (.hostWr a w) s = .next u ∧
      u.txMeta = (if a = 0x205#12 ∧ s.encBusy = false then w.setWidth 8 else t.txMeta) ∧
      u.txType = (if a = 0x206#12 ∧ s.encBusy = false then w.setWidth 8 else t.txType) ∧
      u.txLen = (if a = 0x207#12 ∧ s.encBusy = false then w else t.txLen) ∧
      u.ovr = (if s.encBusy = true ∧ (a.toNat < 0x100 ∨ a = 0x205#12 ∨ a = 0x206#12 ∨ a = 0x207#12) then true
        else if a = 0x201#12 ∧ w.getLsbD 3 = true then false else t.ovr) ∧
      (∀ k, u.mem.read k =
        if s.encBusy = false ∧ a.toNat < 0x100 ∧ k = a.toNat then some (w.setWidth 8) else t.mem.read k) ∧
      u.done = t.done ∧ u.rxValid = t.rxValid ∧ u.code = t.code ∧ SameSequencer t u ∧ SameChecksum t u ∧ SameRx t u ∧
      u.chan = t.chan ∧ u.sent = t.sent ∧ u.rxTake = t.rxTake ∧ u.txValid = t.txValid ∧ u.txData = t.txData ∧
      u.regRdata = t.regRdata ∧ u.params = t.params ∧ u.inputs = t.inputs

/-- R203: a write to an idle block at any index but CMD's completes, with its whole effect. -/
def Obligations.WriteCompletesWhenIdle : Prop :=
  ∀ (a : Index) (w : Word) (s : State), Runs s → s.phase = .idle → a ≠ 0x200#12 →
    ∃ t, exec (.hostWr a w) s = .next t ∧
      t.txMeta = (if a = 0x205#12 then w.setWidth 8 else s.txMeta) ∧
      t.txType = (if a = 0x206#12 then w.setWidth 8 else s.txType) ∧
      t.txLen = (if a = 0x207#12 then w else s.txLen) ∧
      t.ovr = (if a = 0x201#12 ∧ w.getLsbD 3 = true then false else s.ovr) ∧
      (∀ k, t.mem.read k = if a.toNat < 0x100 ∧ k = a.toNat then some (w.setWidth 8) else s.mem.read k) ∧
      t.done = s.done ∧ t.rxValid = s.rxValid ∧ t.code = s.code ∧ SameSequencer s t ∧ SameChecksum s t ∧ SameRx s t ∧
      SameStreams s t ∧ NoOutputs t ∧ Advanced s t

/-- R94: the reserved indices 0x20E to 0xFFF read 0 and ignore writes, in every phase: the step is the one without an
access. -/
def Obligations.ReservedIndicesDoNothing : Prop :=
  ∀ (a : Index) (w : Word) (s : State), 0x20E ≤ a.toNat →
    exec (.hostRd a w) s = exec skipInstr s ∧ exec (.hostWr a w) s = exec skipInstr s ∧
    ∀ t, exec (.hostRd a w) s = .next t → t.regRdata = 0x00000000#32

/-- R208: a write of STATUS clears OVR when bit 3 is 1 and has no effect when it is 0, in every phase. -/
def Obligations.StatusWriteClearsOvrOnly : Prop :=
  ∀ (w : Word) (s : State), exec (.hostWr 0x201#12 w) s =
    if w.getLsbD 3 then mapNext (fun t => { t with ovr := false }) (exec skipInstr s) else exec skipInstr s

/-! ### The phases of DECODE -/

/-- R131, R135, R136: the step of phase SYNC: deadline, wait, match, or a slide of the window. -/
def Obligations.SyncStep : Prop :=
  ∀ (we : BitVec 1) (a : Index) (wd : Word) (s : State), Runs s → s.phase = .sync →
    ∃ t, exec (.skip we a wd) s = .next t ∧
      (s.input.expired = true → t.phase = .idle ∧ t.done = true ∧ t.code = .timeoutReached ∧ t.winN = s.winN ∧
        t.winB = s.winB ∧ t.hidx = s.hidx ∧ SameStreams s t ∧ NoOutputs t) ∧
      (s.input.expired = false → s.arrived = [] → Unchanged s t) ∧
      (∀ b rest, s.input.expired = false → s.arrived = b :: rest →
        t.chan = rest ∧ t.rxTake = true ∧ t.sent = s.sent ∧ t.txValid = false ∧ t.done = s.done ∧ t.code = s.code ∧
        if s.winN = true ∧ s.winB = 0xBA#8 ∧ b = 0xBA#8 then
          t.phase = .hdr ∧ t.winN = false ∧ t.winB = 0x00#8 ∧ t.hidx = 0#4
        else t.phase = .sync ∧ t.winN = true ∧ t.winB = b ∧ t.hidx = s.hidx) ∧
      t.cnt = s.cnt ∧ t.eidx = s.eidx ∧ t.rxValid = s.rxValid ∧ t.ovr = s.ovr ∧ t.txData = 0#8 ∧ t.regRdata = 0#32 ∧
      SameChecksum s t ∧ SameTx s t ∧ SameRx s t ∧ SameMem s t ∧ Advanced s t

/-- R151 to R153: the step of phase HDR. A byte goes to the field of its header position; the last one is followed by
the length check. -/
def Obligations.HdrStep : Prop :=
  ∀ (we : BitVec 1) (a : Index) (wd : Word) (s : State), Runs s → s.phase = .hdr →
    s.hidx.toNat < 7 + s.params.len →
    ∃ t, exec (.skip we a wd) s = .next t ∧
      (s.input.expired = true → t.phase = .idle ∧ t.done = true ∧ t.code = .timeoutReached ∧ t.hidx = s.hidx ∧
        t.cnt = s.cnt ∧ SameStreams s t ∧ NoOutputs t ∧ SameRx s t) ∧
      (s.input.expired = false → s.arrived = [] → Unchanged s t) ∧
      (∀ b rest, s.input.expired = false → s.arrived = b :: rest →
        t.chan = rest ∧ t.rxTake = true ∧ t.sent = s.sent ∧ t.txValid = false ∧
        t.rxVersion = (if s.hidx = 0#4 then b else s.rxVersion) ∧
        t.rxMeta = (if s.hidx = 1#4 then b else s.rxMeta) ∧
        t.rxType = (if s.hidx = 2#4 then b else s.rxType) ∧
        (∀ k, k < 8 → t.rxlen.extractLsb' (8 * k) 8 =
          if 3 ≤ s.hidx.toNat ∧ s.hidx.toNat ≤ 2 + s.params.len ∧
              k = bytePos s.params.byteOrder s.params.len (s.hidx.toNat - 3) then b
          else s.rxlen.extractLsb' (8 * k) 8) ∧
        (∀ k, k < 4 → t.rxCsum.extractLsb' (8 * k) 8 =
          if 3 + s.params.len ≤ s.hidx.toNat ∧
              k = bytePos s.params.byteOrder 4 (s.hidx.toNat - 3 - s.params.len) then b
          else s.rxCsum.extractLsb' (8 * k) 8) ∧
        if s.hidx.toNat = 6 + s.params.len then
          t.hidx = s.hidx ∧
          if s.rxlen = 0#64 then t.phase = .idle ∧ t.done = true ∧ t.code = .malformed ∧ t.cnt = s.cnt
          else if 256 < s.rxlen.toNat then
            t.phase = .idle ∧ t.done = true ∧ t.code = .contentLengthExceeded ∧ t.cnt = s.cnt
          else t.phase = .body ∧ t.cnt = 0#9 ∧ t.done = s.done ∧ t.code = s.code
        else t.phase = .hdr ∧ t.hidx = s.hidx + 1#4 ∧ t.cnt = s.cnt ∧ t.done = s.done ∧ t.code = s.code) ∧
      t.winN = s.winN ∧ t.winB = s.winB ∧ t.eidx = s.eidx ∧ t.rxValid = s.rxValid ∧ t.ovr = s.ovr ∧ t.txData = 0#8 ∧
      t.regRdata = 0#32 ∧ SameChecksum s t ∧ SameTx s t ∧ SameMem s t ∧ Advanced s t

/-- R154, R155: the step of phase BODY. A byte is stored in RXBUF and accumulated; the last one is followed by the
comparison of all 32 bits of the checksum. -/
def Obligations.BodyStep : Prop :=
  ∀ (we : BitVec 1) (a : Index) (wd : Word) (s : State), Runs s → s.phase = .body → s.cnt.toNat < 256 →
    ∃ t, exec (.skip we a wd) s = .next t ∧
      (s.input.expired = true → t.phase = .idle ∧ t.done = true ∧ t.code = .timeoutReached ∧ t.cnt = s.cnt ∧
        t.rxValid = s.rxValid ∧ SameChecksum s t ∧ SameMem s t ∧ SameStreams s t ∧ NoOutputs t) ∧
      (s.input.expired = false → s.arrived = [] → Unchanged s t) ∧
      (∀ b rest, s.input.expired = false → s.arrived = b :: rest →
        t.chan = rest ∧ t.rxTake = true ∧ t.sent = s.sent ∧ t.txValid = false ∧
        (∀ k, t.mem.read k = if k = 0x100 + s.cnt.toNat then some b else s.mem.read k) ∧
        t.acc = s.acc ^^^ (b.setWidth 32 <<< s.pos.toNat) ∧ t.pos.toNat = (s.pos.toNat + 1) % 4 ∧
        t.cnt.toNat = s.cnt.toNat + 1 ∧
        if s.cnt.toNat + 1 = s.rxlen.toNat then
          t.phase = .idle ∧ t.done = true ∧
          if t.acc = s.rxCsum then t.code = .ok ∧ t.rxValid = true
          else t.code = .crcMismatch ∧ t.rxValid = s.rxValid
        else t.phase = .body ∧ t.done = s.done ∧ t.code = s.code ∧ t.rxValid = s.rxValid) ∧
      t.winN = s.winN ∧ t.winB = s.winB ∧ t.hidx = s.hidx ∧ t.eidx = s.eidx ∧ t.ovr = s.ovr ∧ t.txData = 0#8 ∧
      t.regRdata = 0#32 ∧ SameTx s t ∧ SameRx s t ∧ Advanced s t

/-- R157, R224, R266: in a SYNC, HDR or BODY step with expired = 1 the command ends with TIMEOUT_REACHED and no byte is
consumed, whatever the host does in that step. -/
def Obligations.DeadlineEndsDecode : Prop :=
  ∀ s t : State, Runs s → s.decoding = true → s.input.expired = true → step s = .next t →
    t.phase = .idle ∧ t.done = true ∧ t.code = .timeoutReached ∧ t.rxTake = false ∧ SameStreams s t ∧
      SameChecksum s t ∧ SameRx s t ∧ t.rxValid = s.rxValid ∧ ∀ a, 0x100 ≤ a → t.mem.read a = s.mem.read a

/-- R23: outside SYNC, HDR and BODY the deadline input has no effect. -/
def Obligations.DeadlineIgnoredElsewhere : Prop :=
  ∀ (s : State) (e : Bool), s.decoding = false →
    step { s with inputs := { s.input with expired := e } :: s.inputs.tail } = step s

/-! ### The phases of ENCODE -/

/-- R181: the step of phase CALC accumulates TXBUF[cnt] and goes on to EMIT after the last byte. -/
def Obligations.CalcStep : Prop :=
  ∀ (we : BitVec 1) (a : Index) (wd : Word) (b : Byte) (s : State), Runs s → s.phase = .calc → s.cnt.toNat < 256 →
    s.mem.read s.cnt.toNat = some b →
    ∃ t, exec (.skip we a wd) s = .next t ∧
      t.acc = s.acc ^^^ (b.setWidth 32 <<< s.pos.toNat) ∧ t.pos.toNat = (s.pos.toNat + 1) % 4 ∧
      t.cnt.toNat = s.cnt.toNat + 1 ∧
      (if s.cnt.toNat + 1 = s.txLen.toNat then t.phase = .emit ∧ t.eidx = 0#9
        else t.phase = .calc ∧ t.eidx = s.eidx) ∧
      t.winN = s.winN ∧ t.winB = s.winB ∧ t.hidx = s.hidx ∧ SameFlags s t ∧ SameTx s t ∧ SameRx s t ∧ SameMem s t ∧
      SameStreams s t ∧ NoOutputs t ∧ Advanced s t

/-- R183 to R185: the step of phase EMIT sends the byte of the frame at offset eidx and ends OK after the last one. -/
def Obligations.EmitStep : Prop :=
  ∀ (we : BitVec 1) (a : Index) (wd : Word) (content : List Byte) (s : State), Runs s → s.phase = .emit →
    s.txLen.toNat = content.length → content.length ≤ 256 → Holds s.mem txIndex content →
    s.eidx.toNat < s.params.overhead + content.length →
    ∃ t b, exec (.skip we a wd) s = .next t ∧
      (wireFrame s.params 0x01#8 s.txMeta s.txType (BitVec.ofNat 64 content.length) s.acc content)[s.eidx.toNat]? =
        some b ∧
      t.sent = s.sent ++ [b] ∧ t.txValid = true ∧ t.txData = b ∧ t.eidx.toNat = s.eidx.toNat + 1 ∧
      (if s.eidx.toNat + 1 = s.params.overhead + content.length then t.phase = .idle ∧ t.done = true ∧ t.code = .ok
        else t.phase = .emit ∧ t.done = s.done ∧ t.code = s.code) ∧
      t.winN = s.winN ∧ t.winB = s.winB ∧ t.hidx = s.hidx ∧ t.cnt = s.cnt ∧ t.rxValid = s.rxValid ∧ t.ovr = s.ovr ∧
      t.chan = s.arrived ∧ t.rxTake = false ∧ t.regRdata = 0#32 ∧ SameChecksum s t ∧ SameTx s t ∧ SameRx s t ∧
      SameMem s t ∧ Advanced s t

/-! ### The TYPE bytes of the wire -/

/-- R85, R152, R160: each named TYPE byte, presented at header position 2, is stored in RX_TYPE unchecked. That such a
byte is an instruction, and that it stands in place of the channel's head, is the model's choice (log entry 8). -/
def Obligations.TypeByteIsStored : Prop :=
  ∀ (s : State), Runs s → s.phase = .hdr → s.hidx = 2#4 → s.input.expired = false →
    ∀ p ∈ [(Instr.typeDiscover, 0x00#8), (.typeAlive, 0x01#8), (.typeAck, 0x02#8), (.typeData, 0x03#8),
        (.typeFin, 0x04#8)],
      ∃ t, exec p.1 s = .next t ∧ t.rxType = p.2 ∧ t.hidx = 3#4 ∧ t.phase = .hdr ∧ t.chan = s.arrived.drop 1 ∧
        t.rxTake = true ∧ t.sent = s.sent ∧ t.txValid = false ∧ t.txData = 0#8 ∧ t.regRdata = 0#32 ∧
        t.winN = s.winN ∧ t.winB = s.winB ∧ t.cnt = s.cnt ∧ t.eidx = s.eidx ∧ t.rxVersion = s.rxVersion ∧
        t.rxMeta = s.rxMeta ∧ t.rxlen = s.rxlen ∧ t.rxCsum = s.rxCsum ∧ SameChecksum s t ∧ SameFlags s t ∧
        SameTx s t ∧ SameMem s t ∧ Advanced s t

/-- R85: the block does not act on TYPE: in every phase, a step that presents a named TYPE byte which heads the channel
is the step without an access. That such a byte is an instruction is the model's choice (log entry 8). -/
def Obligations.TypeByteStepIsPlainStep : Prop :=
  ∀ (s : State) (b : Byte) (i : Instr) (we : BitVec 1) (a : Index) (wd : Word),
    s.arrived.head? = some b → decodeType b = .ok i → exec i s = exec (.skip we a wd) s

/-! ### Decoding, and the step -/

/-- R85, R90, R91, R210: for every well-formed instruction, decode of encode is the instruction. -/
def Obligations.DecodeOfEncode : Prop :=
  ∀ i : Instr, i.wellFormed = true → decode (encode i) = .ok i

/-- R90, R92, R210: every command word and every transaction but a write of CMD is the encoding of the instruction it
decodes to; a write of CMD decodes to the command of its data. -/
def Obligations.EncodeOfDecode : Prop :=
  (∀ w : Word, encode (decodeCmd w) = .cmd w) ∧
  (∀ w : PortWord, (portSel w = 1#1 → portWe w = 1#1 → portAddr w ≠ Config.cmdIndex) →
    encode (decodePort w) = .port w) ∧
  (∀ w : Word, decodePort (portWr Config.cmdIndex w) = decodeCmd w) ∧
  (∀ (b : Byte) (i : Instr), decodeType b = .ok i → encode i = .wireType b)

/-- R85, R90, R91, R210: words written out from the spec's encodings decode to what they stand for. That the decoder
rejects a TYPE byte without a name is the model's choice (log entry 8): R85 says only that it has none, and the block
receives it like any other byte. -/
def Obligations.SampleWordsDecode : Prop :=
  decodeCmd 0x00000104#32 = .csumAcc 0x0#4 0x01#8 0x0000#16 ∧
  decodeCmd 0x12345603#32 = .csumClear 0x0#4 0x56#8 0x1234#16 ∧
  decodeCmd 0x0000000F#32 = .illegalF 0x0#4 0x00#8 0x0000#16 ∧
  decodePort 0x320000000002#46 = .encode 0x0#4 0x00#8 0x0000#16 ∧
  decodePort 0x220100000000#46 = .hostRd 0x201#12 0x00000000#32 ∧
  decodePort 0x320700000100#46 = .hostWr 0x207#12 0x00000100#32 ∧
  decodePort 0x000000000000#46 = .skip 0#1 0x000#12 0x00000000#32 ∧
  decodeType 0x03#8 = .ok .typeData ∧ decodeType 0x05#8 = .error (.unnamedType 0x05#8)

/-- R200, R201: when the transaction on the port encodes a well-formed instruction the step is that instruction; a step
without an access that takes a named TYPE byte at header position 2 is that TYPE instruction; a state in which an
encoded instruction was placed runs it. What a step's instruction is, in a block that fetches nothing, is the model's
choice (log entries 5, 6 and 8). -/
def Obligations.StepRunsDecodedInstruction : Prop :=
  (∀ (s : State) (i : Instr), i.wellFormed = true → (encode i).asPort = some s.input.port → step s = exec i s) ∧
  (∀ (s : State) (b : Byte) (i : Instr), portSel s.input.port = 0#1 → typeTaken s = some b → decodeType b = .ok i →
    step s = exec i s) ∧
  (∀ (s : State) (i : Instr), i.wellFormed = true → step (placeEncoded (encode i) s) = exec i (placeEncoded (encode i) s))

/-! ### Invariants and rules of the whole machine -/

/-- The invariant holds after reset, for every choice of the parameters; the machine's own reset state is the one at the
spec's defaults (the model's choice, log entry 1). -/
def Obligations.ResetMeetsInvariant : Prop :=
  (∀ p : Params, Inv (State.resetOf p)) ∧ Sys2Proof.core.reset = State.resetOf Params.default ∧ Inv State.reset

/-- Every step keeps the invariant: memory's form, the ranges of accumulator, length and counters, the flags of a
running command, the running checksum, and a whole checked frame behind RX_VALID. That CODE is OK while a command runs
rests on log entry 19. -/
def Obligations.StepKeepsInvariant : Prop := ∀ s t : State, Inv s → step s = .next t → Inv t

/-- R62, R251: in a state of the invariant a step never forms a content index outside the buffers, is never refused,
and faults only for a never-written entry that the program reads: by HOST_RD, or by ENCODE in CALC. -/
def Obligations.InvariantLimitsFaults : Prop :=
  ∀ s : State, Inv s →
    (∀ r, step s ≠ .refused r) ∧ (∀ k, step s ≠ .fault (.noSuchEntry k)) ∧
    (∀ k, step s = .fault (.encodeNeverWritten k) →
      s.phase = .calc ∧ k = s.cnt.toNat ∧ k < s.txLen.toNat ∧ s.mem.read k = none) ∧
    (∀ a, step s = .fault (.readNeverWritten a) →
      a.toNat < 0x200 ∧ s.mem.read a.toNat = none ∧ ∃ wd, fetch s = .hostRd a wd)

/-- R22, R64: a byte is sent exactly in the EMIT steps, and every other step drives tx_valid = 0 and tx_data = 0. -/
def Obligations.TransmitPort : Prop :=
  ∀ s t : State, step s = .next t →
    t.txValid = (s.phase == .emit && !s.input.rst) ∧
    (t.txValid = true → t.sent = s.sent ++ [t.txData]) ∧ (t.txValid = false → t.sent = s.sent ∧ t.txData = 0x00#8)

/-- R21, R63, R137: a byte is consumed only when one is presented, in a SYNC, HDR or BODY step before the deadline, and
then always; it is the head of the channel; every other byte stays, in order. -/
def Obligations.ReceiveHandshake : Prop :=
  ∀ s t : State, step s = .next t →
    t.rxTake = (s.decoding && !s.input.rst && !s.input.expired && !s.arrived.isEmpty) ∧
    (t.rxTake = true → s.arrived.head? ≠ none ∧ t.chan = s.arrived.drop 1) ∧ (t.rxTake = false → t.chan = s.arrived)

/-- R8, R32: the parameters, and so CFG, never change. -/
def Obligations.ParametersNeverChange : Prop :=
  ∀ (i : Instr) (s t : State), exec i s = .next t → t.params = s.params ∧ cfgWord t.params = cfgWord s.params

/-- R48, R221, R223: DONE rises only with the end of a command, from IDLE only in the step of a command that ends at once;
it falls only with a reset or the start of a DECODE or of a legal ENCODE, and RX_VALID rises only when a DECODE ends OK
with equal checksums. -/
def Obligations.DoneAndRxValidChange : Prop :=
  ∀ (i : Instr) (s t : State), exec i s = .next t →
    (s.done = false → t.done = true → t.phase = .idle ∧ (s.phase = .idle → ∃ w : Word,
      (i = decodeCmd w ∨ i = .hostWr Config.cmdIndex w) ∧
      (cmdOp w = 0x3#4 ∨ cmdOp w = 0x4#4 ∨ 0x5 ≤ (cmdOp w).toNat ∨ (cmdOp w = 0x2#4 ∧ 256 < s.txLen.toNat)))) ∧
    (s.done = true → t.done = false → s.input.rst = true ∨
      (s.phase = .idle ∧ (t.phase = .sync ∨ (s.txLen.toNat ≤ 256 ∧ (t.phase = .calc ∨ t.phase = .emit))))) ∧
    (s.rxValid = false → t.rxValid = true →
      s.phase = .body ∧ t.phase = .idle ∧ t.code = .ok ∧ t.acc = t.rxCsum) ∧
    (s.rxValid = true → t.rxValid = false → s.input.rst = true ∨ (s.phase = .idle ∧ t.phase = .sync))

/-- R73, R28, R34 to R36: the TX registers and TXBUF change only by reset or by a host write outside CALC and EMIT. -/
def Obligations.TxStateChangesOnlyByHostWrite : Prop :=
  ∀ (i : Instr) (s t : State), exec i s = .next t →
    (SameTx s t ∧ ∀ a, a < 0x100 → t.mem.read a = s.mem.read a) ∨ s.input.rst = true ∨
    (s.encBusy = false ∧ ∃ (a : Index) (w : Word), i = .hostWr a w ∧
      (a.toNat < 0x100 ∨ a = 0x205#12 ∨ a = 0x206#12 ∨ a = 0x207#12))

/-- R111: the accumulator changes only by reset, by a command written in IDLE, or in a BODY or CALC step. -/
def Obligations.AccumulatorWriters : Prop :=
  ∀ (i : Instr) (s t : State), exec i s = .next t →
    SameChecksum s t ∨ s.input.rst = true ∨ s.phase = .body ∨ s.phase = .calc ∨
    (s.phase = .idle ∧ ∃ w, cmdOp w ∈ [0x1#4, 0x2#4, 0x3#4, 0x4#4] ∧
      (i = decodeCmd w ∨ i = .hostWr Config.cmdIndex w))

/-! ### The status word and the configuration word -/

/-- R31, R40, R95: the fields of STATUS, the numbers of the status codes and those of the phases. -/
def Obligations.StatusFields : Prop :=
  (∀ s : State, s.status.getLsbD 0 = s.busy ∧ s.status.getLsbD 1 = s.done ∧ s.status.getLsbD 2 = s.rxValid ∧
    s.status.getLsbD 3 = s.ovr ∧ s.status.extractLsb' 4 4 = s.code.bits ∧ s.status.extractLsb' 8 3 = s.phase.bits ∧
    s.status.extractLsb' 11 21 = 0#21 ∧ (s.busy = true ↔ s.phase.bits ≠ 0#3)) ∧
  Code.ok.bits = 0#4 ∧ Code.timeoutReached.bits = 1#4 ∧ Code.crcMismatch.bits = 2#4 ∧
  Code.contentLengthExceeded.bits = 3#4 ∧ Code.malformed.bits = 4#4 ∧ Code.internalStateCorrupted.bits = 5#4 ∧
  Code.invalidContent.bits = 6#4 ∧ Code.illegalCmd.bits = 7#4 ∧
  Phase.idle.bits = 0#3 ∧ Phase.sync.bits = 1#3 ∧ Phase.hdr.bits = 2#3 ∧ Phase.body.bits = 3#3 ∧
  Phase.calc.bits = 4#3 ∧ Phase.emit.bits = 5#3

/-- R32: the fields of CFG, and its value at the defaults and at L = 2, LITTLE. -/
def Obligations.ConfigFields : Prop :=
  (∀ p : Params, (cfgWord p).extractLsb' 0 4 = BitVec.ofNat 4 p.len ∧
    ((cfgWord p).getLsbD 4 = true ↔ p.byteOrder = .little) ∧ (cfgWord p).extractLsb' 5 3 = 0#3 ∧
    (cfgWord p).extractLsb' 8 8 = 0x01#8 ∧ (cfgWord p).extractLsb' 16 16 = 0xBABA#16) ∧
  cfgWord Params.default = 0xBABA0104#32 ∧
  cfgWord { lenBytes := .two, byteOrder := .little } = 0xBABA0112#32

/-! ### The checksum function -/

/-- R112: for every k ≥ 0, accumulating the bytes c[0..k-1] after a clear leaves CSUM(c) and the position k mod 4. -/
def Obligations.AccumulationComputesChecksum : Prop :=
  ∀ (bs : List Byte) (s : State), Accumulated (bs.foldl (fun t b => accByte b t) (accClear s)) bs

/-- R116, R117, R264: CSUM_CLEAR and one CSUM_ACC per byte, written in consecutive steps, leave the checksum of those
bytes in the accumulator and nothing else changed but DONE and CODE (the steps' inputs as a list: log entry 2). -/
def Obligations.ChecksumByCommands : Prop :=
  ∀ (bs : List Byte) (later : List StepIn) (s : State), s.phase = .idle →
    s.inputs = cmdInput 0x00000003#32 :: bs.map (fun b => cmdInput (accWord b)) ++ later →
    ∃ t : State, Host.Core.run Sys2Proof.core (bs.length + 1) s = .next t ∧ Accumulated t bs ∧ t.done = true ∧
      t.code = .ok ∧ t.rxValid = s.rxValid ∧ t.ovr = s.ovr ∧ SameSequencer s t ∧ SameTx s t ∧ SameRx s t ∧
      SameMem s t ∧ SameStreams s t ∧ t.params = s.params ∧ t.inputs = later

/-- R113: each term is below 2^11, the checksum lies in 0 to 0x7FF, every value there occurs, and the accumulator, 0 after
reset, stays in that range under every instruction. -/
def Obligations.ChecksumRange : Prop :=
  (∀ (b : Byte) (i : Nat), (b.setWidth 32 <<< (i % 4) : Word).toNat < 2 ^ 11) ∧
  (∀ bs : List Byte, (csum bs).toNat < 0x800) ∧ (∀ v : Word, v.toNat < 0x800 → ∃ bs : List Byte, csum bs = v) ∧
  csum [0xFF#8, 0x80#8, 0x80#8, 0x80#8] = 0x7FF#32 ∧
  (∀ p : Params, (State.resetOf p).acc = 0#32) ∧
  (∀ (i : Instr) (s t : State), s.acc.toNat < 0x800 → exec i s = .next t → t.acc.toNat < 0x800)

/-- R114: the checksum is linear over XOR, a change of exactly one content byte is always detected, and in general a
change is undetected exactly when its own checksum is 0. -/
def Obligations.ChecksumDetectsSingleByteChange : Prop :=
  (∀ a b : List Byte, a.length = b.length → csum a ^^^ csum b = csum (List.zipWith (· ^^^ ·) a b)) ∧
  (∀ (pre post : List Byte) (x y : Byte), x ≠ y → csum (pre ++ x :: post) ≠ csum (pre ++ y :: post)) ∧
  (∀ a b : List Byte, a.length = b.length → (csum a = csum b ↔ csum (List.zipWith (· ^^^ ·) a b) = 0#32))

/-- R115: exchanging two bytes whose positions are congruent modulo 4 goes undetected, XORing one value into an even
number of positions of one class does too, and so do the other examples. -/
def Obligations.ChecksumBlindSpots : Prop :=
  (∀ (pre mid post : List Byte) (x y : Byte), mid.length % 4 = 3 →
    csum (pre ++ x :: mid ++ y :: post) = csum (pre ++ y :: mid ++ x :: post)) ∧
  csum [0x11#8, 0x22#8, 0x33#8, 0x44#8, 0x55#8] = 0x2EC#32 ∧ csum [0x02#8, 0x00#8] = 0x002#32 ∧
  csum [0x00#8, 0x01#8] = 0x002#32 ∧
  (∀ (c : List Byte) (x : Byte) (k : Nat) (places : List Nat), places.Nodup → places.length % 2 = 0 →
    (∀ i ∈ places, i < c.length ∧ i % 4 = k) →
    csum (c.mapIdx (fun i b => if i ∈ places then b ^^^ x else b)) = csum c) ∧
  (∀ (x : Byte) (n : Nat), csum (List.replicate (8 * n) x) = 0#32)

/-! ### Wire fields -/

/-- R83, R13: byte j of Field(v, W, order) is v's byte from bit 8(W-1-j) under BIG and from bit 8j under LITTLE, a
received byte j is placed at the same bits, and the bytes of a field, placed one by one in wire order into 0, give v
back, for CONTENT_LENGTH and for CHECKSUM. -/
def Obligations.FieldRoundTrip : Prop :=
  (∀ W j : Nat, bytePos .big W j = W - 1 - j ∧ bytePos .little W j = j) ∧
  (∀ (W j n : Nat) (v : BitVec n), j < W →
    (field .big W v)[j]? = some (v.extractLsb' (8 * (W - 1 - j)) 8) ∧
    (field .little W v)[j]? = some (v.extractLsb' (8 * j) 8)) ∧
  (∀ (W j n : Nat) (v : BitVec n) (b : Byte), j < W → 8 * W ≤ n →
    (placeByte .big W j b v).extractLsb' (8 * (W - 1 - j)) 8 = b ∧
    (placeByte .little W j b v).extractLsb' (8 * j) 8 = b) ∧
  (∀ (o : ByteOrder) (v : Word),
    (field o 4 v).zipIdx.foldl (fun acc bj => placeByte o 4 bj.2 bj.1 acc) 0#32 = v) ∧
  (∀ (p : Params) (v : BitVec 64), v.toNat < 2 ^ (8 * p.len) →
    (field p.byteOrder p.len v).zipIdx.foldl (fun acc bj => placeByte p.byteOrder p.len bj.2 bj.1 acc) 0#64 = v)

/-- R80: the frame of the source's scenario, under both byte orders and two widths. -/
def Obligations.SampleFrames : Prop :=
  wireFrame Params.default 0x01#8 0x00#8 0x03#8 3#64 (csum [0x01#8, 0x02#8, 0x03#8]) [0x01#8, 0x02#8, 0x03#8] =
    [0xBA#8, 0xBA#8, 0x01#8, 0x00#8, 0x03#8, 0x00#8, 0x00#8, 0x00#8, 0x03#8, 0x00#8, 0x00#8, 0x00#8, 0x09#8,
     0x01#8, 0x02#8, 0x03#8] ∧
  wireFrame { lenBytes := .two, byteOrder := .little } 0x01#8 0x00#8 0x03#8 3#64 0x09#32 [0x01#8, 0x02#8, 0x03#8] =
    [0xBA#8, 0xBA#8, 0x01#8, 0x00#8, 0x03#8, 0x03#8, 0x00#8, 0x09#8, 0x00#8, 0x00#8, 0x00#8, 0x01#8, 0x02#8, 0x03#8]

/-! ### Whole commands -/

/-- R132 to R134, R138: over noise that contains no marker and does not end in its first byte, SYNC finds the marker
that follows, discards the noise and leaves the bytes after the marker in the channel (the steps' inputs and the channel
as lists: log entries 2 and 3). -/
def Obligations.SyncFindsFirstMarker : Prop :=
  ∀ (noise rest : List Byte) (later : List StepIn) (s : State), s.phase = .sync → s.winN = false →
    hasMarker (noise ++ [0xBA#8]) = false → s.chan = noise ++ 0xBA#8 :: 0xBA#8 :: rest →
    s.inputs = List.replicate (noise.length + 2) StepIn.quiet ++ later →
    ∃ t : State, Host.Core.run Sys2Proof.core (noise.length + 2) s = .next t ∧ t.phase = .hdr ∧ t.hidx = 0#4 ∧
      t.winN = false ∧ t.winB = 0x00#8 ∧ t.cnt = s.cnt ∧ t.eidx = s.eidx ∧ t.chan = rest ∧ t.sent = s.sent ∧
      SameFlags s t ∧ SameChecksum s t ∧ SameTx s t ∧ SameRx s t ∧ SameMem s t ∧ t.params = s.params ∧ t.inputs = later

/-- R150 to R159, R138, R265: a DECODE over noise and then a frame whose length is in 1 to 256 consumes exactly both
and ends OK when the frame's checksum is its content's, else CRC_MISMATCH; the frame stands in the RX registers and in
RXBUF, and RX_VALID says which (the steps' inputs and the channel as lists: log entries 2 and 3). -/
def Obligations.DecodeReceivesFrame : Prop :=
  ∀ (w : Word) (noise content rest : List Byte) (version metadata type : Byte) (sum : Word) (later : List StepIn)
    (s : State), cmdOp w = 0x1#4 → s.phase = .idle → 1 ≤ content.length → content.length ≤ 256 →
    hasMarker (noise ++ [0xBA#8]) = false →
    s.chan = noise ++
      (wireFrame s.params version metadata type (BitVec.ofNat 64 content.length) sum content ++ rest) →
    s.inputs = cmdInput w ::
      List.replicate (noise.length + (s.params.overhead + content.length)) StepIn.quiet ++ later →
    ∃ t : State,
      Host.Core.run Sys2Proof.core (1 + (noise.length + (s.params.overhead + content.length))) s = .next t ∧
      t.phase = .idle ∧ t.done = true ∧ t.code = (if csum content = sum then .ok else .crcMismatch) ∧
      t.rxValid = decide (csum content = sum) ∧ t.ovr = s.ovr ∧ t.rxVersion = version ∧ t.rxMeta = metadata ∧
      t.rxType = type ∧ t.rxlen = BitVec.ofNat 64 content.length ∧ t.rxCsum = sum ∧
      Holds t.mem rxIndex content ∧
      (∀ a, a < 0x100 ∨ 0x100 + content.length ≤ a → t.mem.read a = s.mem.read a) ∧ Accumulated t content ∧
      t.chan = rest ∧ t.sent = s.sent ∧ SameTx s t ∧ t.params = s.params ∧ t.inputs = later

/-- R153, R158, R159, R258, R263: a DECODE over noise and then a header whose length is 0 or above 256 ends MALFORMED or
CONTENT_LENGTH_EXCEEDED after the whole header; no content byte is consumed and RXBUF is unchanged. -/
def Obligations.DecodeRejectsBadLength : Prop :=
  ∀ (w : Word) (noise rest : List Byte) (version metadata type : Byte) (len : BitVec 64) (sum : Word)
    (later : List StepIn) (s : State), cmdOp w = 0x1#4 → s.phase = .idle → len.toNat < 2 ^ (8 * s.params.len) →
    len = 0#64 ∨ 256 < len.toNat → hasMarker (noise ++ [0xBA#8]) = false →
    s.chan = noise ++ 0xBA#8 :: 0xBA#8 :: (wireHeader s.params version metadata type len sum ++ rest) →
    s.inputs = cmdInput w :: List.replicate (noise.length + s.params.overhead) StepIn.quiet ++ later →
    ∃ t : State, Host.Core.run Sys2Proof.core (1 + (noise.length + s.params.overhead)) s = .next t ∧
      t.phase = .idle ∧ t.done = true ∧ t.code = (if len = 0#64 then .malformed else .contentLengthExceeded) ∧
      t.rxValid = false ∧ t.ovr = s.ovr ∧ t.rxVersion = version ∧ t.rxMeta = metadata ∧ t.rxType = type ∧
      t.rxlen = len ∧ t.rxCsum = sum ∧ t.acc = 0#32 ∧ t.pos = 0#2 ∧ SameMem s t ∧ t.chan = rest ∧ t.sent = s.sent ∧
      SameTx s t ∧ t.params = s.params ∧ t.inputs = later

/-- R187, R185, R190, R265: an ENCODE with TX_LEN = n of at most 256 sends exactly the frame of the TX registers and of
TXBUF[0..n-1] with their checksum, in n + FRAME_OVERHEAD + n steps past its start step, and ends OK. -/
def Obligations.EncodeSendsFrame : Prop :=
  ∀ (w : Word) (content : List Byte) (later : List StepIn) (s : State), cmdOp w = 0x2#4 → s.phase = .idle →
    s.txLen.toNat = content.length → content.length ≤ 256 → Holds s.mem txIndex content →
    s.inputs = cmdInput w ::
      List.replicate (content.length + (s.params.overhead + content.length)) StepIn.quiet ++ later →
    ∃ t : State,
      Host.Core.run Sys2Proof.core (1 + (content.length + (s.params.overhead + content.length))) s = .next t ∧
      t.sent = s.sent ++
        wireFrame s.params 0x01#8 s.txMeta s.txType (BitVec.ofNat 64 content.length) (csum content) content ∧
      t.phase = .idle ∧ t.done = true ∧ t.code = .ok ∧ t.rxValid = s.rxValid ∧ t.ovr = s.ovr ∧
      Accumulated t content ∧ t.winN = s.winN ∧ t.winB = s.winB ∧ t.hidx = s.hidx ∧
      t.cnt.toNat = content.length ∧ t.eidx.toNat = s.params.overhead + content.length ∧ t.chan = s.chan ∧
      SameTx s t ∧ SameRx s t ∧ SameMem s t ∧ t.params = s.params ∧ t.inputs = later

/-- R188: what an ENCODE with 1 ≤ TX_LEN ≤ 256 sends, presented to a DECODE on a block with the same parameters, is
received OK with the same metadata, type, length, checksum and content. -/
def Obligations.DecodeOfEncodedFrame : Prop :=
  ∀ (w w' : Word) (content : List Byte) (later later' : List StepIn) (s r : State), cmdOp w = 0x2#4 →
    cmdOp w' = 0x1#4 → s.phase = .idle → r.phase = .idle → r.params = s.params → s.txLen.toNat = content.length →
    1 ≤ content.length → content.length ≤ 256 → Holds s.mem txIndex content →
    s.inputs = cmdInput w ::
      List.replicate (content.length + (s.params.overhead + content.length)) StepIn.quiet ++ later →
    r.inputs = cmdInput w' :: List.replicate (s.params.overhead + content.length) StepIn.quiet ++ later' →
    ∃ (t : State) (bytes : List Byte),
      Host.Core.run Sys2Proof.core (1 + (content.length + (s.params.overhead + content.length))) s = .next t ∧
      t.sent = s.sent ++ bytes ∧
      (r.chan = bytes → ∃ u : State,
        Host.Core.run Sys2Proof.core (1 + (s.params.overhead + content.length)) r = .next u ∧ u.phase = .idle ∧
        u.done = true ∧ u.code = .ok ∧ u.rxValid = true ∧ u.rxVersion = 0x01#8 ∧ u.rxMeta = s.txMeta ∧
        u.rxType = s.txType ∧ u.rxlen = s.txLen.setWidth 64 ∧ u.rxCsum = csum content ∧
        Holds u.mem rxIndex content ∧ u.chan = [])

/-- R189: two ENCODEs from states that agree on the parameters, the TX registers and TXBUF[0..TX_LEN-1] send identical
byte sequences, whatever else differs. -/
def Obligations.RetransmissionIsIdentical : Prop :=
  ∀ (w w' : Word) (content : List Byte) (later later' : List StepIn) (s r : State), cmdOp w = 0x2#4 →
    cmdOp w' = 0x2#4 → s.phase = .idle → r.phase = .idle → r.params = s.params → SameTx s r →
    s.txLen.toNat = content.length → content.length ≤ 256 → Holds s.mem txIndex content →
    Holds r.mem txIndex content →
    s.inputs = cmdInput w ::
      List.replicate (content.length + (s.params.overhead + content.length)) StepIn.quiet ++ later →
    r.inputs = cmdInput w' ::
      List.replicate (content.length + (s.params.overhead + content.length)) StepIn.quiet ++ later' →
    ∃ (t u : State) (bytes : List Byte),
      Host.Core.run Sys2Proof.core (1 + (content.length + (s.params.overhead + content.length))) s = .next t ∧
      Host.Core.run Sys2Proof.core (1 + (content.length + (s.params.overhead + content.length))) r = .next u ∧
      t.sent = s.sent ++ bytes ∧ u.sent = r.sent ++ bytes ∧ bytes.length = s.params.overhead + content.length

/-- R16, R136, R137, R261: a DECODE whose deadline never comes and whose bytes never hold the marker never leaves SYNC:
after any number of steps in which the host at most polls STATUS it still searches (past the listed inputs every step is
quiet: the model's choice, log entry 2). -/
def Obligations.SearchWithoutMarkerNeverEnds : Prop :=
  ∀ (n : Nat) (s : State), s.phase = .sync → (∀ i ∈ s.inputs, i.poll) → hasMarker (s.window ++ s.chan) = false →
    ∃ t : State, Host.Core.run Sys2Proof.core n s = .next t ∧ t.phase = .sync ∧ SameFlags s t ∧ t.sent = s.sent ∧
      t.chan = s.chan.drop n

/-- R211, R212: a WAIT_DONE on such a DECODE never ends: at every pace of the host (R209), its program runs on after any
number of steps. The host that runs it is the model's (log entry 16), and so is that every step past the listed inputs
is quiet (log entry 2). -/
def Obligations.WaitDoneOnHangNeverHalts : Prop :=
  ∀ (n rT : Nat) (more : List HostInstr) (r : HostRun), r.prog = waitDone 0 rT ++ more → r.pc = 0 →
    r.block.phase = .sync → r.block.done = false → (∀ i ∈ r.block.inputs, i.poll) →
    hasMarker (r.block.window ++ r.block.chan) = false →
    ∃ r' : HostRun, HostRun.steps n r = some r' ∧ r'.step ≠ none ∧ r'.block.phase = .sync ∧ r'.block.done = false

/-- R209: the host's pace is free. In every phase a step it lets pass is a SKIP of the block, after which its program
stands where it stood; and any number of such steps over an idle block with quiet inputs does not change what the rest
of the run does. The host that runs a program, and the list of its pauses, are the model's (log entry 16). -/
def Obligations.HostPaceIsFree : Prop :=
  (∀ (r : HostRun) (t : State) (later : List Bool), r.pauses = true :: later → r.move ≠ .halted →
    Sys2Proof.Machine.step (drivePort portSkip r.block) = .next t →
    r.step = some (.next { r with pauses := later, block := t })) ∧
  (∀ (k n : Nat) (later : List Bool) (more : List StepIn) (r : HostRun), r.block.phase = .idle →
    r.pauses = later → r.block.inputs = more →
    HostRun.steps (k + (n + 1)) { r with
      pauses := List.replicate k true ++ later
      block := { r.block with inputs := List.replicate k StepIn.quiet ++ more } } = HostRun.steps (n + 1) r)
end

