-- ==== Sys2Proof/Laws/State.lean ====
section
/-!
SUPPORT. For each named update of the state, what each field is after it.
-/
namespace Sys2Proof.Machine

/-! ### beginStep -/
@[simp] theorem beginStep_params (s : State) : (beginStep s).params = s.params := rfl
@[simp] theorem beginStep_phase (s : State) : (beginStep s).phase = s.phase := rfl
@[simp] theorem beginStep_winN (s : State) : (beginStep s).winN = s.winN := rfl
@[simp] theorem beginStep_winB (s : State) : (beginStep s).winB = s.winB := rfl
@[simp] theorem beginStep_hidx (s : State) : (beginStep s).hidx = s.hidx := rfl
@[simp] theorem beginStep_cnt (s : State) : (beginStep s).cnt = s.cnt := rfl
@[simp] theorem beginStep_eidx (s : State) : (beginStep s).eidx = s.eidx := rfl
@[simp] theorem beginStep_acc (s : State) : (beginStep s).acc = s.acc := rfl
@[simp] theorem beginStep_pos (s : State) : (beginStep s).pos = s.pos := rfl
@[simp] theorem beginStep_rxlen (s : State) : (beginStep s).rxlen = s.rxlen := rfl
@[simp] theorem beginStep_done (s : State) : (beginStep s).done = s.done := rfl
@[simp] theorem beginStep_rxValid (s : State) : (beginStep s).rxValid = s.rxValid := rfl
@[simp] theorem beginStep_ovr (s : State) : (beginStep s).ovr = s.ovr := rfl
@[simp] theorem beginStep_code (s : State) : (beginStep s).code = s.code := rfl
@[simp] theorem beginStep_txMeta (s : State) : (beginStep s).txMeta = s.txMeta := rfl
@[simp] theorem beginStep_txType (s : State) : (beginStep s).txType = s.txType := rfl
@[simp] theorem beginStep_txLen (s : State) : (beginStep s).txLen = s.txLen := rfl
@[simp] theorem beginStep_rxVersion (s : State) : (beginStep s).rxVersion = s.rxVersion := rfl
@[simp] theorem beginStep_rxMeta (s : State) : (beginStep s).rxMeta = s.rxMeta := rfl
@[simp] theorem beginStep_rxType (s : State) : (beginStep s).rxType = s.rxType := rfl
@[simp] theorem beginStep_rxCsum (s : State) : (beginStep s).rxCsum = s.rxCsum := rfl
@[simp] theorem beginStep_mem (s : State) : (beginStep s).mem = s.mem := rfl
@[simp] theorem beginStep_rxTake (s : State) : (beginStep s).rxTake = false := rfl
@[simp] theorem beginStep_txValid (s : State) : (beginStep s).txValid = false := rfl
@[simp] theorem beginStep_txData (s : State) : (beginStep s).txData = 0#8 := rfl
@[simp] theorem beginStep_regRdata (s : State) : (beginStep s).regRdata = 0#32 := rfl
@[simp] theorem beginStep_chan (s : State) : (beginStep s).chan = s.chan ++ s.input.arrive := rfl
@[simp] theorem beginStep_sent (s : State) : (beginStep s).sent = s.sent := rfl
@[simp] theorem beginStep_inputs (s : State) : (beginStep s).inputs = s.inputs.tail := rfl

/-! ### takeByte -/
@[simp] theorem takeByte_params (rest : List Byte) (s : State) : (takeByte rest s).params = s.params := rfl
@[simp] theorem takeByte_phase (rest : List Byte) (s : State) : (takeByte rest s).phase = s.phase := rfl
@[simp] theorem takeByte_winN (rest : List Byte) (s : State) : (takeByte rest s).winN = s.winN := rfl
@[simp] theorem takeByte_winB (rest : List Byte) (s : State) : (takeByte rest s).winB = s.winB := rfl
@[simp] theorem takeByte_hidx (rest : List Byte) (s : State) : (takeByte rest s).hidx = s.hidx := rfl
@[simp] theorem takeByte_cnt (rest : List Byte) (s : State) : (takeByte rest s).cnt = s.cnt := rfl
@[simp] theorem takeByte_eidx (rest : List Byte) (s : State) : (takeByte rest s).eidx = s.eidx := rfl
@[simp] theorem takeByte_acc (rest : List Byte) (s : State) : (takeByte rest s).acc = s.acc := rfl
@[simp] theorem takeByte_pos (rest : List Byte) (s : State) : (takeByte rest s).pos = s.pos := rfl
@[simp] theorem takeByte_rxlen (rest : List Byte) (s : State) : (takeByte rest s).rxlen = s.rxlen := rfl
@[simp] theorem takeByte_done (rest : List Byte) (s : State) : (takeByte rest s).done = s.done := rfl
@[simp] theorem takeByte_rxValid (rest : List Byte) (s : State) : (takeByte rest s).rxValid = s.rxValid := rfl
@[simp] theorem takeByte_ovr (rest : List Byte) (s : State) : (takeByte rest s).ovr = s.ovr := rfl
@[simp] theorem takeByte_code (rest : List Byte) (s : State) : (takeByte rest s).code = s.code := rfl
@[simp] theorem takeByte_txMeta (rest : List Byte) (s : State) : (takeByte rest s).txMeta = s.txMeta := rfl
@[simp] theorem takeByte_txType (rest : List Byte) (s : State) : (takeByte rest s).txType = s.txType := rfl
@[simp] theorem takeByte_txLen (rest : List Byte) (s : State) : (takeByte rest s).txLen = s.txLen := rfl
@[simp] theorem takeByte_rxVersion (rest : List Byte) (s : State) : (takeByte rest s).rxVersion = s.rxVersion := rfl
@[simp] theorem takeByte_rxMeta (rest : List Byte) (s : State) : (takeByte rest s).rxMeta = s.rxMeta := rfl
@[simp] theorem takeByte_rxType (rest : List Byte) (s : State) : (takeByte rest s).rxType = s.rxType := rfl
@[simp] theorem takeByte_rxCsum (rest : List Byte) (s : State) : (takeByte rest s).rxCsum = s.rxCsum := rfl
@[simp] theorem takeByte_mem (rest : List Byte) (s : State) : (takeByte rest s).mem = s.mem := rfl
@[simp] theorem takeByte_rxTake (rest : List Byte) (s : State) : (takeByte rest s).rxTake = true := rfl
@[simp] theorem takeByte_txValid (rest : List Byte) (s : State) : (takeByte rest s).txValid = s.txValid := rfl
@[simp] theorem takeByte_txData (rest : List Byte) (s : State) : (takeByte rest s).txData = s.txData := rfl
@[simp] theorem takeByte_regRdata (rest : List Byte) (s : State) : (takeByte rest s).regRdata = s.regRdata := rfl
@[simp] theorem takeByte_chan (rest : List Byte) (s : State) : (takeByte rest s).chan = rest := rfl
@[simp] theorem takeByte_sent (rest : List Byte) (s : State) : (takeByte rest s).sent = s.sent := rfl
@[simp] theorem takeByte_inputs (rest : List Byte) (s : State) : (takeByte rest s).inputs = s.inputs := rfl

/-! ### txEmit -/
@[simp] theorem txEmit_params (b : Byte) (s : State) : (txEmit b s).params = s.params := rfl
@[simp] theorem txEmit_phase (b : Byte) (s : State) : (txEmit b s).phase = s.phase := rfl
@[simp] theorem txEmit_winN (b : Byte) (s : State) : (txEmit b s).winN = s.winN := rfl
@[simp] theorem txEmit_winB (b : Byte) (s : State) : (txEmit b s).winB = s.winB := rfl
@[simp] theorem txEmit_hidx (b : Byte) (s : State) : (txEmit b s).hidx = s.hidx := rfl
@[simp] theorem txEmit_cnt (b : Byte) (s : State) : (txEmit b s).cnt = s.cnt := rfl
@[simp] theorem txEmit_eidx (b : Byte) (s : State) : (txEmit b s).eidx = s.eidx := rfl
@[simp] theorem txEmit_acc (b : Byte) (s : State) : (txEmit b s).acc = s.acc := rfl
@[simp] theorem txEmit_pos (b : Byte) (s : State) : (txEmit b s).pos = s.pos := rfl
@[simp] theorem txEmit_rxlen (b : Byte) (s : State) : (txEmit b s).rxlen = s.rxlen := rfl
@[simp] theorem txEmit_done (b : Byte) (s : State) : (txEmit b s).done = s.done := rfl
@[simp] theorem txEmit_rxValid (b : Byte) (s : State) : (txEmit b s).rxValid = s.rxValid := rfl
@[simp] theorem txEmit_ovr (b : Byte) (s : State) : (txEmit b s).ovr = s.ovr := rfl
@[simp] theorem txEmit_code (b : Byte) (s : State) : (txEmit b s).code = s.code := rfl
@[simp] theorem txEmit_txMeta (b : Byte) (s : State) : (txEmit b s).txMeta = s.txMeta := rfl
@[simp] theorem txEmit_txType (b : Byte) (s : State) : (txEmit b s).txType = s.txType := rfl
@[simp] theorem txEmit_txLen (b : Byte) (s : State) : (txEmit b s).txLen = s.txLen := rfl
@[simp] theorem txEmit_rxVersion (b : Byte) (s : State) : (txEmit b s).rxVersion = s.rxVersion := rfl
@[simp] theorem txEmit_rxMeta (b : Byte) (s : State) : (txEmit b s).rxMeta = s.rxMeta := rfl
@[simp] theorem txEmit_rxType (b : Byte) (s : State) : (txEmit b s).rxType = s.rxType := rfl
@[simp] theorem txEmit_rxCsum (b : Byte) (s : State) : (txEmit b s).rxCsum = s.rxCsum := rfl
@[simp] theorem txEmit_mem (b : Byte) (s : State) : (txEmit b s).mem = s.mem := rfl
@[simp] theorem txEmit_rxTake (b : Byte) (s : State) : (txEmit b s).rxTake = s.rxTake := rfl
@[simp] theorem txEmit_txValid (b : Byte) (s : State) : (txEmit b s).txValid = true := rfl
@[simp] theorem txEmit_txData (b : Byte) (s : State) : (txEmit b s).txData = b := rfl
@[simp] theorem txEmit_regRdata (b : Byte) (s : State) : (txEmit b s).regRdata = s.regRdata := rfl
@[simp] theorem txEmit_chan (b : Byte) (s : State) : (txEmit b s).chan = s.chan := rfl
@[simp] theorem txEmit_sent (b : Byte) (s : State) : (txEmit b s).sent = s.sent ++ [b] := rfl
@[simp] theorem txEmit_inputs (b : Byte) (s : State) : (txEmit b s).inputs = s.inputs := rfl

/-! ### accByte -/
@[simp] theorem accByte_params (b : Byte) (s : State) : (accByte b s).params = s.params := rfl
@[simp] theorem accByte_phase (b : Byte) (s : State) : (accByte b s).phase = s.phase := rfl
@[simp] theorem accByte_winN (b : Byte) (s : State) : (accByte b s).winN = s.winN := rfl
@[simp] theorem accByte_winB (b : Byte) (s : State) : (accByte b s).winB = s.winB := rfl
@[simp] theorem accByte_hidx (b : Byte) (s : State) : (accByte b s).hidx = s.hidx := rfl
@[simp] theorem accByte_cnt (b : Byte) (s : State) : (accByte b s).cnt = s.cnt := rfl
@[simp] theorem accByte_eidx (b : Byte) (s : State) : (accByte b s).eidx = s.eidx := rfl
@[simp] theorem accByte_acc (b : Byte) (s : State) : (accByte b s).acc = s.acc ^^^ (b.setWidth 32 <<< s.pos.toNat) := rfl
@[simp] theorem accByte_pos (b : Byte) (s : State) : (accByte b s).pos = s.pos + 1#2 := rfl
@[simp] theorem accByte_rxlen (b : Byte) (s : State) : (accByte b s).rxlen = s.rxlen := rfl
@[simp] theorem accByte_done (b : Byte) (s : State) : (accByte b s).done = s.done := rfl
@[simp] theorem accByte_rxValid (b : Byte) (s : State) : (accByte b s).rxValid = s.rxValid := rfl
@[simp] theorem accByte_ovr (b : Byte) (s : State) : (accByte b s).ovr = s.ovr := rfl
@[simp] theorem accByte_code (b : Byte) (s : State) : (accByte b s).code = s.code := rfl
@[simp] theorem accByte_txMeta (b : Byte) (s : State) : (accByte b s).txMeta = s.txMeta := rfl
@[simp] theorem accByte_txType (b : Byte) (s : State) : (accByte b s).txType = s.txType := rfl
@[simp] theorem accByte_txLen (b : Byte) (s : State) : (accByte b s).txLen = s.txLen := rfl
@[simp] theorem accByte_rxVersion (b : Byte) (s : State) : (accByte b s).rxVersion = s.rxVersion := rfl
@[simp] theorem accByte_rxMeta (b : Byte) (s : State) : (accByte b s).rxMeta = s.rxMeta := rfl
@[simp] theorem accByte_rxType (b : Byte) (s : State) : (accByte b s).rxType = s.rxType := rfl
@[simp] theorem accByte_rxCsum (b : Byte) (s : State) : (accByte b s).rxCsum = s.rxCsum := rfl
@[simp] theorem accByte_mem (b : Byte) (s : State) : (accByte b s).mem = s.mem := rfl
@[simp] theorem accByte_rxTake (b : Byte) (s : State) : (accByte b s).rxTake = s.rxTake := rfl
@[simp] theorem accByte_txValid (b : Byte) (s : State) : (accByte b s).txValid = s.txValid := rfl
@[simp] theorem accByte_txData (b : Byte) (s : State) : (accByte b s).txData = s.txData := rfl
@[simp] theorem accByte_regRdata (b : Byte) (s : State) : (accByte b s).regRdata = s.regRdata := rfl
@[simp] theorem accByte_chan (b : Byte) (s : State) : (accByte b s).chan = s.chan := rfl
@[simp] theorem accByte_sent (b : Byte) (s : State) : (accByte b s).sent = s.sent := rfl
@[simp] theorem accByte_inputs (b : Byte) (s : State) : (accByte b s).inputs = s.inputs := rfl

/-! ### accClear -/
@[simp] theorem accClear_params (s : State) : (accClear s).params = s.params := rfl
@[simp] theorem accClear_phase (s : State) : (accClear s).phase = s.phase := rfl
@[simp] theorem accClear_winN (s : State) : (accClear s).winN = s.winN := rfl
@[simp] theorem accClear_winB (s : State) : (accClear s).winB = s.winB := rfl
@[simp] theorem accClear_hidx (s : State) : (accClear s).hidx = s.hidx := rfl
@[simp] theorem accClear_cnt (s : State) : (accClear s).cnt = s.cnt := rfl
@[simp] theorem accClear_eidx (s : State) : (accClear s).eidx = s.eidx := rfl
@[simp] theorem accClear_acc (s : State) : (accClear s).acc = 0#32 := rfl
@[simp] theorem accClear_pos (s : State) : (accClear s).pos = 0#2 := rfl
@[simp] theorem accClear_rxlen (s : State) : (accClear s).rxlen = s.rxlen := rfl
@[simp] theorem accClear_done (s : State) : (accClear s).done = s.done := rfl
@[simp] theorem accClear_rxValid (s : State) : (accClear s).rxValid = s.rxValid := rfl
@[simp] theorem accClear_ovr (s : State) : (accClear s).ovr = s.ovr := rfl
@[simp] theorem accClear_code (s : State) : (accClear s).code = s.code := rfl
@[simp] theorem accClear_txMeta (s : State) : (accClear s).txMeta = s.txMeta := rfl
@[simp] theorem accClear_txType (s : State) : (accClear s).txType = s.txType := rfl
@[simp] theorem accClear_txLen (s : State) : (accClear s).txLen = s.txLen := rfl
@[simp] theorem accClear_rxVersion (s : State) : (accClear s).rxVersion = s.rxVersion := rfl
@[simp] theorem accClear_rxMeta (s : State) : (accClear s).rxMeta = s.rxMeta := rfl
@[simp] theorem accClear_rxType (s : State) : (accClear s).rxType = s.rxType := rfl
@[simp] theorem accClear_rxCsum (s : State) : (accClear s).rxCsum = s.rxCsum := rfl
@[simp] theorem accClear_mem (s : State) : (accClear s).mem = s.mem := rfl
@[simp] theorem accClear_rxTake (s : State) : (accClear s).rxTake = s.rxTake := rfl
@[simp] theorem accClear_txValid (s : State) : (accClear s).txValid = s.txValid := rfl
@[simp] theorem accClear_txData (s : State) : (accClear s).txData = s.txData := rfl
@[simp] theorem accClear_regRdata (s : State) : (accClear s).regRdata = s.regRdata := rfl
@[simp] theorem accClear_chan (s : State) : (accClear s).chan = s.chan := rfl
@[simp] theorem accClear_sent (s : State) : (accClear s).sent = s.sent := rfl
@[simp] theorem accClear_inputs (s : State) : (accClear s).inputs = s.inputs := rfl

/-! ### finish -/
@[simp] theorem finish_params (c : Code) (s : State) : (finish c s).params = s.params := rfl
@[simp] theorem finish_phase (c : Code) (s : State) : (finish c s).phase = .idle := rfl
@[simp] theorem finish_winN (c : Code) (s : State) : (finish c s).winN = s.winN := rfl
@[simp] theorem finish_winB (c : Code) (s : State) : (finish c s).winB = s.winB := rfl
@[simp] theorem finish_hidx (c : Code) (s : State) : (finish c s).hidx = s.hidx := rfl
@[simp] theorem finish_cnt (c : Code) (s : State) : (finish c s).cnt = s.cnt := rfl
@[simp] theorem finish_eidx (c : Code) (s : State) : (finish c s).eidx = s.eidx := rfl
@[simp] theorem finish_acc (c : Code) (s : State) : (finish c s).acc = s.acc := rfl
@[simp] theorem finish_pos (c : Code) (s : State) : (finish c s).pos = s.pos := rfl
@[simp] theorem finish_rxlen (c : Code) (s : State) : (finish c s).rxlen = s.rxlen := rfl
@[simp] theorem finish_done (c : Code) (s : State) : (finish c s).done = true := rfl
@[simp] theorem finish_rxValid (c : Code) (s : State) : (finish c s).rxValid = s.rxValid := rfl
@[simp] theorem finish_ovr (c : Code) (s : State) : (finish c s).ovr = s.ovr := rfl
@[simp] theorem finish_code (c : Code) (s : State) : (finish c s).code = c := rfl
@[simp] theorem finish_txMeta (c : Code) (s : State) : (finish c s).txMeta = s.txMeta := rfl
@[simp] theorem finish_txType (c : Code) (s : State) : (finish c s).txType = s.txType := rfl
@[simp] theorem finish_txLen (c : Code) (s : State) : (finish c s).txLen = s.txLen := rfl
@[simp] theorem finish_rxVersion (c : Code) (s : State) : (finish c s).rxVersion = s.rxVersion := rfl
@[simp] theorem finish_rxMeta (c : Code) (s : State) : (finish c s).rxMeta = s.rxMeta := rfl
@[simp] theorem finish_rxType (c : Code) (s : State) : (finish c s).rxType = s.rxType := rfl
@[simp] theorem finish_rxCsum (c : Code) (s : State) : (finish c s).rxCsum = s.rxCsum := rfl
@[simp] theorem finish_mem (c : Code) (s : State) : (finish c s).mem = s.mem := rfl
@[simp] theorem finish_rxTake (c : Code) (s : State) : (finish c s).rxTake = s.rxTake := rfl
@[simp] theorem finish_txValid (c : Code) (s : State) : (finish c s).txValid = s.txValid := rfl
@[simp] theorem finish_txData (c : Code) (s : State) : (finish c s).txData = s.txData := rfl
@[simp] theorem finish_regRdata (c : Code) (s : State) : (finish c s).regRdata = s.regRdata := rfl
@[simp] theorem finish_chan (c : Code) (s : State) : (finish c s).chan = s.chan := rfl
@[simp] theorem finish_sent (c : Code) (s : State) : (finish c s).sent = s.sent := rfl
@[simp] theorem finish_inputs (c : Code) (s : State) : (finish c s).inputs = s.inputs := rfl

/-! ### setOvr -/
@[simp] theorem setOvr_params (s : State) : (setOvr s).params = s.params := rfl
@[simp] theorem setOvr_phase (s : State) : (setOvr s).phase = s.phase := rfl
@[simp] theorem setOvr_winN (s : State) : (setOvr s).winN = s.winN := rfl
@[simp] theorem setOvr_winB (s : State) : (setOvr s).winB = s.winB := rfl
@[simp] theorem setOvr_hidx (s : State) : (setOvr s).hidx = s.hidx := rfl
@[simp] theorem setOvr_cnt (s : State) : (setOvr s).cnt = s.cnt := rfl
@[simp] theorem setOvr_eidx (s : State) : (setOvr s).eidx = s.eidx := rfl
@[simp] theorem setOvr_acc (s : State) : (setOvr s).acc = s.acc := rfl
@[simp] theorem setOvr_pos (s : State) : (setOvr s).pos = s.pos := rfl
@[simp] theorem setOvr_rxlen (s : State) : (setOvr s).rxlen = s.rxlen := rfl
@[simp] theorem setOvr_done (s : State) : (setOvr s).done = s.done := rfl
@[simp] theorem setOvr_rxValid (s : State) : (setOvr s).rxValid = s.rxValid := rfl
@[simp] theorem setOvr_ovr (s : State) : (setOvr s).ovr = true := rfl
@[simp] theorem setOvr_code (s : State) : (setOvr s).code = s.code := rfl
@[simp] theorem setOvr_txMeta (s : State) : (setOvr s).txMeta = s.txMeta := rfl
@[simp] theorem setOvr_txType (s : State) : (setOvr s).txType = s.txType := rfl
@[simp] theorem setOvr_txLen (s : State) : (setOvr s).txLen = s.txLen := rfl
@[simp] theorem setOvr_rxVersion (s : State) : (setOvr s).rxVersion = s.rxVersion := rfl
@[simp] theorem setOvr_rxMeta (s : State) : (setOvr s).rxMeta = s.rxMeta := rfl
@[simp] theorem setOvr_rxType (s : State) : (setOvr s).rxType = s.rxType := rfl
@[simp] theorem setOvr_rxCsum (s : State) : (setOvr s).rxCsum = s.rxCsum := rfl
@[simp] theorem setOvr_mem (s : State) : (setOvr s).mem = s.mem := rfl
@[simp] theorem setOvr_rxTake (s : State) : (setOvr s).rxTake = s.rxTake := rfl
@[simp] theorem setOvr_txValid (s : State) : (setOvr s).txValid = s.txValid := rfl
@[simp] theorem setOvr_txData (s : State) : (setOvr s).txData = s.txData := rfl
@[simp] theorem setOvr_regRdata (s : State) : (setOvr s).regRdata = s.regRdata := rfl
@[simp] theorem setOvr_chan (s : State) : (setOvr s).chan = s.chan := rfl
@[simp] theorem setOvr_sent (s : State) : (setOvr s).sent = s.sent := rfl
@[simp] theorem setOvr_inputs (s : State) : (setOvr s).inputs = s.inputs := rfl

/-! ### writeTx -/
@[simp] theorem writeTx_params (k : BitVec 8) (b : Byte) (s : State) : (writeTx k b s).params = s.params := rfl
@[simp] theorem writeTx_phase (k : BitVec 8) (b : Byte) (s : State) : (writeTx k b s).phase = s.phase := rfl
@[simp] theorem writeTx_winN (k : BitVec 8) (b : Byte) (s : State) : (writeTx k b s).winN = s.winN := rfl
@[simp] theorem writeTx_winB (k : BitVec 8) (b : Byte) (s : State) : (writeTx k b s).winB = s.winB := rfl
@[simp] theorem writeTx_hidx (k : BitVec 8) (b : Byte) (s : State) : (writeTx k b s).hidx = s.hidx := rfl
@[simp] theorem writeTx_cnt (k : BitVec 8) (b : Byte) (s : State) : (writeTx k b s).cnt = s.cnt := rfl
@[simp] theorem writeTx_eidx (k : BitVec 8) (b : Byte) (s : State) : (writeTx k b s).eidx = s.eidx := rfl
@[simp] theorem writeTx_acc (k : BitVec 8) (b : Byte) (s : State) : (writeTx k b s).acc = s.acc := rfl
@[simp] theorem writeTx_pos (k : BitVec 8) (b : Byte) (s : State) : (writeTx k b s).pos = s.pos := rfl
@[simp] theorem writeTx_rxlen (k : BitVec 8) (b : Byte) (s : State) : (writeTx k b s).rxlen = s.rxlen := rfl
@[simp] theorem writeTx_done (k : BitVec 8) (b : Byte) (s : State) : (writeTx k b s).done = s.done := rfl
@[simp] theorem writeTx_rxValid (k : BitVec 8) (b : Byte) (s : State) : (writeTx k b s).rxValid = s.rxValid := rfl
@[simp] theorem writeTx_ovr (k : BitVec 8) (b : Byte) (s : State) : (writeTx k b s).ovr = s.ovr := rfl
@[simp] theorem writeTx_code (k : BitVec 8) (b : Byte) (s : State) : (writeTx k b s).code = s.code := rfl
@[simp] theorem writeTx_txMeta (k : BitVec 8) (b : Byte) (s : State) : (writeTx k b s).txMeta = s.txMeta := rfl
@[simp] theorem writeTx_txType (k : BitVec 8) (b : Byte) (s : State) : (writeTx k b s).txType = s.txType := rfl
@[simp] theorem writeTx_txLen (k : BitVec 8) (b : Byte) (s : State) : (writeTx k b s).txLen = s.txLen := rfl
@[simp] theorem writeTx_rxVersion (k : BitVec 8) (b : Byte) (s : State) : (writeTx k b s).rxVersion = s.rxVersion := rfl
@[simp] theorem writeTx_rxMeta (k : BitVec 8) (b : Byte) (s : State) : (writeTx k b s).rxMeta = s.rxMeta := rfl
@[simp] theorem writeTx_rxType (k : BitVec 8) (b : Byte) (s : State) : (writeTx k b s).rxType = s.rxType := rfl
@[simp] theorem writeTx_rxCsum (k : BitVec 8) (b : Byte) (s : State) : (writeTx k b s).rxCsum = s.rxCsum := rfl
@[simp] theorem writeTx_mem (k : BitVec 8) (b : Byte) (s : State) : (writeTx k b s).mem = s.mem.write (txIndex k.toNat) b := rfl
@[simp] theorem writeTx_rxTake (k : BitVec 8) (b : Byte) (s : State) : (writeTx k b s).rxTake = s.rxTake := rfl
@[simp] theorem writeTx_txValid (k : BitVec 8) (b : Byte) (s : State) : (writeTx k b s).txValid = s.txValid := rfl
@[simp] theorem writeTx_txData (k : BitVec 8) (b : Byte) (s : State) : (writeTx k b s).txData = s.txData := rfl
@[simp] theorem writeTx_regRdata (k : BitVec 8) (b : Byte) (s : State) : (writeTx k b s).regRdata = s.regRdata := rfl
@[simp] theorem writeTx_chan (k : BitVec 8) (b : Byte) (s : State) : (writeTx k b s).chan = s.chan := rfl
@[simp] theorem writeTx_sent (k : BitVec 8) (b : Byte) (s : State) : (writeTx k b s).sent = s.sent := rfl
@[simp] theorem writeTx_inputs (k : BitVec 8) (b : Byte) (s : State) : (writeTx k b s).inputs = s.inputs := rfl

/-! ### storeRx -/
@[simp] theorem storeRx_params (k : Nat) (b : Byte) (s : State) : (storeRx k b s).params = s.params := rfl
@[simp] theorem storeRx_phase (k : Nat) (b : Byte) (s : State) : (storeRx k b s).phase = s.phase := rfl
@[simp] theorem storeRx_winN (k : Nat) (b : Byte) (s : State) : (storeRx k b s).winN = s.winN := rfl
@[simp] theorem storeRx_winB (k : Nat) (b : Byte) (s : State) : (storeRx k b s).winB = s.winB := rfl
@[simp] theorem storeRx_hidx (k : Nat) (b : Byte) (s : State) : (storeRx k b s).hidx = s.hidx := rfl
@[simp] theorem storeRx_cnt (k : Nat) (b : Byte) (s : State) : (storeRx k b s).cnt = s.cnt := rfl
@[simp] theorem storeRx_eidx (k : Nat) (b : Byte) (s : State) : (storeRx k b s).eidx = s.eidx := rfl
@[simp] theorem storeRx_acc (k : Nat) (b : Byte) (s : State) : (storeRx k b s).acc = s.acc := rfl
@[simp] theorem storeRx_pos (k : Nat) (b : Byte) (s : State) : (storeRx k b s).pos = s.pos := rfl
@[simp] theorem storeRx_rxlen (k : Nat) (b : Byte) (s : State) : (storeRx k b s).rxlen = s.rxlen := rfl
@[simp] theorem storeRx_done (k : Nat) (b : Byte) (s : State) : (storeRx k b s).done = s.done := rfl
@[simp] theorem storeRx_rxValid (k : Nat) (b : Byte) (s : State) : (storeRx k b s).rxValid = s.rxValid := rfl
@[simp] theorem storeRx_ovr (k : Nat) (b : Byte) (s : State) : (storeRx k b s).ovr = s.ovr := rfl
@[simp] theorem storeRx_code (k : Nat) (b : Byte) (s : State) : (storeRx k b s).code = s.code := rfl
@[simp] theorem storeRx_txMeta (k : Nat) (b : Byte) (s : State) : (storeRx k b s).txMeta = s.txMeta := rfl
@[simp] theorem storeRx_txType (k : Nat) (b : Byte) (s : State) : (storeRx k b s).txType = s.txType := rfl
@[simp] theorem storeRx_txLen (k : Nat) (b : Byte) (s : State) : (storeRx k b s).txLen = s.txLen := rfl
@[simp] theorem storeRx_rxVersion (k : Nat) (b : Byte) (s : State) : (storeRx k b s).rxVersion = s.rxVersion := rfl
@[simp] theorem storeRx_rxMeta (k : Nat) (b : Byte) (s : State) : (storeRx k b s).rxMeta = s.rxMeta := rfl
@[simp] theorem storeRx_rxType (k : Nat) (b : Byte) (s : State) : (storeRx k b s).rxType = s.rxType := rfl
@[simp] theorem storeRx_rxCsum (k : Nat) (b : Byte) (s : State) : (storeRx k b s).rxCsum = s.rxCsum := rfl
@[simp] theorem storeRx_mem (k : Nat) (b : Byte) (s : State) : (storeRx k b s).mem = s.mem.write (rxIndex k) b := rfl
@[simp] theorem storeRx_rxTake (k : Nat) (b : Byte) (s : State) : (storeRx k b s).rxTake = s.rxTake := rfl
@[simp] theorem storeRx_txValid (k : Nat) (b : Byte) (s : State) : (storeRx k b s).txValid = s.txValid := rfl
@[simp] theorem storeRx_txData (k : Nat) (b : Byte) (s : State) : (storeRx k b s).txData = s.txData := rfl
@[simp] theorem storeRx_regRdata (k : Nat) (b : Byte) (s : State) : (storeRx k b s).regRdata = s.regRdata := rfl
@[simp] theorem storeRx_chan (k : Nat) (b : Byte) (s : State) : (storeRx k b s).chan = s.chan := rfl
@[simp] theorem storeRx_sent (k : Nat) (b : Byte) (s : State) : (storeRx k b s).sent = s.sent := rfl
@[simp] theorem storeRx_inputs (k : Nat) (b : Byte) (s : State) : (storeRx k b s).inputs = s.inputs := rfl

/-! ### present -/
@[simp] theorem present_params (c : Byte) (s : State) : (present c s).params = s.params := rfl
@[simp] theorem present_phase (c : Byte) (s : State) : (present c s).phase = s.phase := rfl
@[simp] theorem present_winN (c : Byte) (s : State) : (present c s).winN = s.winN := rfl
@[simp] theorem present_winB (c : Byte) (s : State) : (present c s).winB = s.winB := rfl
@[simp] theorem present_hidx (c : Byte) (s : State) : (present c s).hidx = s.hidx := rfl
@[simp] theorem present_cnt (c : Byte) (s : State) : (present c s).cnt = s.cnt := rfl
@[simp] theorem present_eidx (c : Byte) (s : State) : (present c s).eidx = s.eidx := rfl
@[simp] theorem present_acc (c : Byte) (s : State) : (present c s).acc = s.acc := rfl
@[simp] theorem present_pos (c : Byte) (s : State) : (present c s).pos = s.pos := rfl
@[simp] theorem present_rxlen (c : Byte) (s : State) : (present c s).rxlen = s.rxlen := rfl
@[simp] theorem present_done (c : Byte) (s : State) : (present c s).done = s.done := rfl
@[simp] theorem present_rxValid (c : Byte) (s : State) : (present c s).rxValid = s.rxValid := rfl
@[simp] theorem present_ovr (c : Byte) (s : State) : (present c s).ovr = s.ovr := rfl
@[simp] theorem present_code (c : Byte) (s : State) : (present c s).code = s.code := rfl
@[simp] theorem present_txMeta (c : Byte) (s : State) : (present c s).txMeta = s.txMeta := rfl
@[simp] theorem present_txType (c : Byte) (s : State) : (present c s).txType = s.txType := rfl
@[simp] theorem present_txLen (c : Byte) (s : State) : (present c s).txLen = s.txLen := rfl
@[simp] theorem present_rxVersion (c : Byte) (s : State) : (present c s).rxVersion = s.rxVersion := rfl
@[simp] theorem present_rxMeta (c : Byte) (s : State) : (present c s).rxMeta = s.rxMeta := rfl
@[simp] theorem present_rxType (c : Byte) (s : State) : (present c s).rxType = s.rxType := rfl
@[simp] theorem present_rxCsum (c : Byte) (s : State) : (present c s).rxCsum = s.rxCsum := rfl
@[simp] theorem present_mem (c : Byte) (s : State) : (present c s).mem = s.mem := rfl
@[simp] theorem present_rxTake (c : Byte) (s : State) : (present c s).rxTake = s.rxTake := rfl
@[simp] theorem present_txValid (c : Byte) (s : State) : (present c s).txValid = s.txValid := rfl
@[simp] theorem present_txData (c : Byte) (s : State) : (present c s).txData = s.txData := rfl
@[simp] theorem present_regRdata (c : Byte) (s : State) : (present c s).regRdata = s.regRdata := rfl
@[simp] theorem present_chan (c : Byte) (s : State) : (present c s).chan = c :: s.chan.drop 1 := rfl
@[simp] theorem present_sent (c : Byte) (s : State) : (present c s).sent = s.sent := rfl
@[simp] theorem present_inputs (c : Byte) (s : State) : (present c s).inputs = s.inputs := rfl

/-! ### countHeader -/
@[simp] theorem countHeader_params (s : State) : (countHeader s).params = s.params := rfl
@[simp] theorem countHeader_phase (s : State) : (countHeader s).phase = s.phase := rfl
@[simp] theorem countHeader_winN (s : State) : (countHeader s).winN = s.winN := rfl
@[simp] theorem countHeader_winB (s : State) : (countHeader s).winB = s.winB := rfl
@[simp] theorem countHeader_hidx (s : State) : (countHeader s).hidx = s.hidx + 1#4 := rfl
@[simp] theorem countHeader_cnt (s : State) : (countHeader s).cnt = s.cnt := rfl
@[simp] theorem countHeader_eidx (s : State) : (countHeader s).eidx = s.eidx := rfl
@[simp] theorem countHeader_acc (s : State) : (countHeader s).acc = s.acc := rfl
@[simp] theorem countHeader_pos (s : State) : (countHeader s).pos = s.pos := rfl
@[simp] theorem countHeader_rxlen (s : State) : (countHeader s).rxlen = s.rxlen := rfl
@[simp] theorem countHeader_done (s : State) : (countHeader s).done = s.done := rfl
@[simp] theorem countHeader_rxValid (s : State) : (countHeader s).rxValid = s.rxValid := rfl
@[simp] theorem countHeader_ovr (s : State) : (countHeader s).ovr = s.ovr := rfl
@[simp] theorem countHeader_code (s : State) : (countHeader s).code = s.code := rfl
@[simp] theorem countHeader_txMeta (s : State) : (countHeader s).txMeta = s.txMeta := rfl
@[simp] theorem countHeader_txType (s : State) : (countHeader s).txType = s.txType := rfl
@[simp] theorem countHeader_txLen (s : State) : (countHeader s).txLen = s.txLen := rfl
@[simp] theorem countHeader_rxVersion (s : State) : (countHeader s).rxVersion = s.rxVersion := rfl
@[simp] theorem countHeader_rxMeta (s : State) : (countHeader s).rxMeta = s.rxMeta := rfl
@[simp] theorem countHeader_rxType (s : State) : (countHeader s).rxType = s.rxType := rfl
@[simp] theorem countHeader_rxCsum (s : State) : (countHeader s).rxCsum = s.rxCsum := rfl
@[simp] theorem countHeader_mem (s : State) : (countHeader s).mem = s.mem := rfl
@[simp] theorem countHeader_rxTake (s : State) : (countHeader s).rxTake = s.rxTake := rfl
@[simp] theorem countHeader_txValid (s : State) : (countHeader s).txValid = s.txValid := rfl
@[simp] theorem countHeader_txData (s : State) : (countHeader s).txData = s.txData := rfl
@[simp] theorem countHeader_regRdata (s : State) : (countHeader s).regRdata = s.regRdata := rfl
@[simp] theorem countHeader_chan (s : State) : (countHeader s).chan = s.chan := rfl
@[simp] theorem countHeader_sent (s : State) : (countHeader s).sent = s.sent := rfl
@[simp] theorem countHeader_inputs (s : State) : (countHeader s).inputs = s.inputs := rfl

/-! ### countContent -/
@[simp] theorem countContent_params (s : State) : (countContent s).params = s.params := rfl
@[simp] theorem countContent_phase (s : State) : (countContent s).phase = s.phase := rfl
@[simp] theorem countContent_winN (s : State) : (countContent s).winN = s.winN := rfl
@[simp] theorem countContent_winB (s : State) : (countContent s).winB = s.winB := rfl
@[simp] theorem countContent_hidx (s : State) : (countContent s).hidx = s.hidx := rfl
@[simp] theorem countContent_cnt (s : State) : (countContent s).cnt = s.cnt + 1#9 := rfl
@[simp] theorem countContent_eidx (s : State) : (countContent s).eidx = s.eidx := rfl
@[simp] theorem countContent_acc (s : State) : (countContent s).acc = s.acc := rfl
@[simp] theorem countContent_pos (s : State) : (countContent s).pos = s.pos := rfl
@[simp] theorem countContent_rxlen (s : State) : (countContent s).rxlen = s.rxlen := rfl
@[simp] theorem countContent_done (s : State) : (countContent s).done = s.done := rfl
@[simp] theorem countContent_rxValid (s : State) : (countContent s).rxValid = s.rxValid := rfl
@[simp] theorem countContent_ovr (s : State) : (countContent s).ovr = s.ovr := rfl
@[simp] theorem countContent_code (s : State) : (countContent s).code = s.code := rfl
@[simp] theorem countContent_txMeta (s : State) : (countContent s).txMeta = s.txMeta := rfl
@[simp] theorem countContent_txType (s : State) : (countContent s).txType = s.txType := rfl
@[simp] theorem countContent_txLen (s : State) : (countContent s).txLen = s.txLen := rfl
@[simp] theorem countContent_rxVersion (s : State) : (countContent s).rxVersion = s.rxVersion := rfl
@[simp] theorem countContent_rxMeta (s : State) : (countContent s).rxMeta = s.rxMeta := rfl
@[simp] theorem countContent_rxType (s : State) : (countContent s).rxType = s.rxType := rfl
@[simp] theorem countContent_rxCsum (s : State) : (countContent s).rxCsum = s.rxCsum := rfl
@[simp] theorem countContent_mem (s : State) : (countContent s).mem = s.mem := rfl
@[simp] theorem countContent_rxTake (s : State) : (countContent s).rxTake = s.rxTake := rfl
@[simp] theorem countContent_txValid (s : State) : (countContent s).txValid = s.txValid := rfl
@[simp] theorem countContent_txData (s : State) : (countContent s).txData = s.txData := rfl
@[simp] theorem countContent_regRdata (s : State) : (countContent s).regRdata = s.regRdata := rfl
@[simp] theorem countContent_chan (s : State) : (countContent s).chan = s.chan := rfl
@[simp] theorem countContent_sent (s : State) : (countContent s).sent = s.sent := rfl
@[simp] theorem countContent_inputs (s : State) : (countContent s).inputs = s.inputs := rfl

/-! ### countSent -/
@[simp] theorem countSent_params (s : State) : (countSent s).params = s.params := rfl
@[simp] theorem countSent_phase (s : State) : (countSent s).phase = s.phase := rfl
@[simp] theorem countSent_winN (s : State) : (countSent s).winN = s.winN := rfl
@[simp] theorem countSent_winB (s : State) : (countSent s).winB = s.winB := rfl
@[simp] theorem countSent_hidx (s : State) : (countSent s).hidx = s.hidx := rfl
@[simp] theorem countSent_cnt (s : State) : (countSent s).cnt = s.cnt := rfl
@[simp] theorem countSent_eidx (s : State) : (countSent s).eidx = s.eidx + 1#9 := rfl
@[simp] theorem countSent_acc (s : State) : (countSent s).acc = s.acc := rfl
@[simp] theorem countSent_pos (s : State) : (countSent s).pos = s.pos := rfl
@[simp] theorem countSent_rxlen (s : State) : (countSent s).rxlen = s.rxlen := rfl
@[simp] theorem countSent_done (s : State) : (countSent s).done = s.done := rfl
@[simp] theorem countSent_rxValid (s : State) : (countSent s).rxValid = s.rxValid := rfl
@[simp] theorem countSent_ovr (s : State) : (countSent s).ovr = s.ovr := rfl
@[simp] theorem countSent_code (s : State) : (countSent s).code = s.code := rfl
@[simp] theorem countSent_txMeta (s : State) : (countSent s).txMeta = s.txMeta := rfl
@[simp] theorem countSent_txType (s : State) : (countSent s).txType = s.txType := rfl
@[simp] theorem countSent_txLen (s : State) : (countSent s).txLen = s.txLen := rfl
@[simp] theorem countSent_rxVersion (s : State) : (countSent s).rxVersion = s.rxVersion := rfl
@[simp] theorem countSent_rxMeta (s : State) : (countSent s).rxMeta = s.rxMeta := rfl
@[simp] theorem countSent_rxType (s : State) : (countSent s).rxType = s.rxType := rfl
@[simp] theorem countSent_rxCsum (s : State) : (countSent s).rxCsum = s.rxCsum := rfl
@[simp] theorem countSent_mem (s : State) : (countSent s).mem = s.mem := rfl
@[simp] theorem countSent_rxTake (s : State) : (countSent s).rxTake = s.rxTake := rfl
@[simp] theorem countSent_txValid (s : State) : (countSent s).txValid = s.txValid := rfl
@[simp] theorem countSent_txData (s : State) : (countSent s).txData = s.txData := rfl
@[simp] theorem countSent_regRdata (s : State) : (countSent s).regRdata = s.regRdata := rfl
@[simp] theorem countSent_chan (s : State) : (countSent s).chan = s.chan := rfl
@[simp] theorem countSent_sent (s : State) : (countSent s).sent = s.sent := rfl
@[simp] theorem countSent_inputs (s : State) : (countSent s).inputs = s.inputs := rfl

/-! ### startBody -/
@[simp] theorem startBody_params (s : State) : (startBody s).params = s.params := rfl
@[simp] theorem startBody_phase (s : State) : (startBody s).phase = .body := rfl
@[simp] theorem startBody_winN (s : State) : (startBody s).winN = s.winN := rfl
@[simp] theorem startBody_winB (s : State) : (startBody s).winB = s.winB := rfl
@[simp] theorem startBody_hidx (s : State) : (startBody s).hidx = s.hidx := rfl
@[simp] theorem startBody_cnt (s : State) : (startBody s).cnt = 0#9 := rfl
@[simp] theorem startBody_eidx (s : State) : (startBody s).eidx = s.eidx := rfl
@[simp] theorem startBody_acc (s : State) : (startBody s).acc = s.acc := rfl
@[simp] theorem startBody_pos (s : State) : (startBody s).pos = s.pos := rfl
@[simp] theorem startBody_rxlen (s : State) : (startBody s).rxlen = s.rxlen := rfl
@[simp] theorem startBody_done (s : State) : (startBody s).done = s.done := rfl
@[simp] theorem startBody_rxValid (s : State) : (startBody s).rxValid = s.rxValid := rfl
@[simp] theorem startBody_ovr (s : State) : (startBody s).ovr = s.ovr := rfl
@[simp] theorem startBody_code (s : State) : (startBody s).code = s.code := rfl
@[simp] theorem startBody_txMeta (s : State) : (startBody s).txMeta = s.txMeta := rfl
@[simp] theorem startBody_txType (s : State) : (startBody s).txType = s.txType := rfl
@[simp] theorem startBody_txLen (s : State) : (startBody s).txLen = s.txLen := rfl
@[simp] theorem startBody_rxVersion (s : State) : (startBody s).rxVersion = s.rxVersion := rfl
@[simp] theorem startBody_rxMeta (s : State) : (startBody s).rxMeta = s.rxMeta := rfl
@[simp] theorem startBody_rxType (s : State) : (startBody s).rxType = s.rxType := rfl
@[simp] theorem startBody_rxCsum (s : State) : (startBody s).rxCsum = s.rxCsum := rfl
@[simp] theorem startBody_mem (s : State) : (startBody s).mem = s.mem := rfl
@[simp] theorem startBody_rxTake (s : State) : (startBody s).rxTake = s.rxTake := rfl
@[simp] theorem startBody_txValid (s : State) : (startBody s).txValid = s.txValid := rfl
@[simp] theorem startBody_txData (s : State) : (startBody s).txData = s.txData := rfl
@[simp] theorem startBody_regRdata (s : State) : (startBody s).regRdata = s.regRdata := rfl
@[simp] theorem startBody_chan (s : State) : (startBody s).chan = s.chan := rfl
@[simp] theorem startBody_sent (s : State) : (startBody s).sent = s.sent := rfl
@[simp] theorem startBody_inputs (s : State) : (startBody s).inputs = s.inputs := rfl

/-! ### startEmit -/
@[simp] theorem startEmit_params (s : State) : (startEmit s).params = s.params := rfl
@[simp] theorem startEmit_phase (s : State) : (startEmit s).phase = .emit := rfl
@[simp] theorem startEmit_winN (s : State) : (startEmit s).winN = s.winN := rfl
@[simp] theorem startEmit_winB (s : State) : (startEmit s).winB = s.winB := rfl
@[simp] theorem startEmit_hidx (s : State) : (startEmit s).hidx = s.hidx := rfl
@[simp] theorem startEmit_cnt (s : State) : (startEmit s).cnt = s.cnt := rfl
@[simp] theorem startEmit_eidx (s : State) : (startEmit s).eidx = 0#9 := rfl
@[simp] theorem startEmit_acc (s : State) : (startEmit s).acc = s.acc := rfl
@[simp] theorem startEmit_pos (s : State) : (startEmit s).pos = s.pos := rfl
@[simp] theorem startEmit_rxlen (s : State) : (startEmit s).rxlen = s.rxlen := rfl
@[simp] theorem startEmit_done (s : State) : (startEmit s).done = s.done := rfl
@[simp] theorem startEmit_rxValid (s : State) : (startEmit s).rxValid = s.rxValid := rfl
@[simp] theorem startEmit_ovr (s : State) : (startEmit s).ovr = s.ovr := rfl
@[simp] theorem startEmit_code (s : State) : (startEmit s).code = s.code := rfl
@[simp] theorem startEmit_txMeta (s : State) : (startEmit s).txMeta = s.txMeta := rfl
@[simp] theorem startEmit_txType (s : State) : (startEmit s).txType = s.txType := rfl
@[simp] theorem startEmit_txLen (s : State) : (startEmit s).txLen = s.txLen := rfl
@[simp] theorem startEmit_rxVersion (s : State) : (startEmit s).rxVersion = s.rxVersion := rfl
@[simp] theorem startEmit_rxMeta (s : State) : (startEmit s).rxMeta = s.rxMeta := rfl
@[simp] theorem startEmit_rxType (s : State) : (startEmit s).rxType = s.rxType := rfl
@[simp] theorem startEmit_rxCsum (s : State) : (startEmit s).rxCsum = s.rxCsum := rfl
@[simp] theorem startEmit_mem (s : State) : (startEmit s).mem = s.mem := rfl
@[simp] theorem startEmit_rxTake (s : State) : (startEmit s).rxTake = s.rxTake := rfl
@[simp] theorem startEmit_txValid (s : State) : (startEmit s).txValid = s.txValid := rfl
@[simp] theorem startEmit_txData (s : State) : (startEmit s).txData = s.txData := rfl
@[simp] theorem startEmit_regRdata (s : State) : (startEmit s).regRdata = s.regRdata := rfl
@[simp] theorem startEmit_chan (s : State) : (startEmit s).chan = s.chan := rfl
@[simp] theorem startEmit_sent (s : State) : (startEmit s).sent = s.sent := rfl
@[simp] theorem startEmit_inputs (s : State) : (startEmit s).inputs = s.inputs := rfl

/-! ### acceptFrame -/
@[simp] theorem acceptFrame_params (s : State) : (acceptFrame s).params = s.params := rfl
@[simp] theorem acceptFrame_phase (s : State) : (acceptFrame s).phase = .idle := rfl
@[simp] theorem acceptFrame_winN (s : State) : (acceptFrame s).winN = s.winN := rfl
@[simp] theorem acceptFrame_winB (s : State) : (acceptFrame s).winB = s.winB := rfl
@[simp] theorem acceptFrame_hidx (s : State) : (acceptFrame s).hidx = s.hidx := rfl
@[simp] theorem acceptFrame_cnt (s : State) : (acceptFrame s).cnt = s.cnt := rfl
@[simp] theorem acceptFrame_eidx (s : State) : (acceptFrame s).eidx = s.eidx := rfl
@[simp] theorem acceptFrame_acc (s : State) : (acceptFrame s).acc = s.acc := rfl
@[simp] theorem acceptFrame_pos (s : State) : (acceptFrame s).pos = s.pos := rfl
@[simp] theorem acceptFrame_rxlen (s : State) : (acceptFrame s).rxlen = s.rxlen := rfl
@[simp] theorem acceptFrame_done (s : State) : (acceptFrame s).done = true := rfl
@[simp] theorem acceptFrame_rxValid (s : State) : (acceptFrame s).rxValid = true := rfl
@[simp] theorem acceptFrame_ovr (s : State) : (acceptFrame s).ovr = s.ovr := rfl
@[simp] theorem acceptFrame_code (s : State) : (acceptFrame s).code = .ok := rfl
@[simp] theorem acceptFrame_txMeta (s : State) : (acceptFrame s).txMeta = s.txMeta := rfl
@[simp] theorem acceptFrame_txType (s : State) : (acceptFrame s).txType = s.txType := rfl
@[simp] theorem acceptFrame_txLen (s : State) : (acceptFrame s).txLen = s.txLen := rfl
@[simp] theorem acceptFrame_rxVersion (s : State) : (acceptFrame s).rxVersion = s.rxVersion := rfl
@[simp] theorem acceptFrame_rxMeta (s : State) : (acceptFrame s).rxMeta = s.rxMeta := rfl
@[simp] theorem acceptFrame_rxType (s : State) : (acceptFrame s).rxType = s.rxType := rfl
@[simp] theorem acceptFrame_rxCsum (s : State) : (acceptFrame s).rxCsum = s.rxCsum := rfl
@[simp] theorem acceptFrame_mem (s : State) : (acceptFrame s).mem = s.mem := rfl
@[simp] theorem acceptFrame_rxTake (s : State) : (acceptFrame s).rxTake = s.rxTake := rfl
@[simp] theorem acceptFrame_txValid (s : State) : (acceptFrame s).txValid = s.txValid := rfl
@[simp] theorem acceptFrame_txData (s : State) : (acceptFrame s).txData = s.txData := rfl
@[simp] theorem acceptFrame_regRdata (s : State) : (acceptFrame s).regRdata = s.regRdata := rfl
@[simp] theorem acceptFrame_chan (s : State) : (acceptFrame s).chan = s.chan := rfl
@[simp] theorem acceptFrame_sent (s : State) : (acceptFrame s).sent = s.sent := rfl
@[simp] theorem acceptFrame_inputs (s : State) : (acceptFrame s).inputs = s.inputs := rfl

end Sys2Proof.Machine
end

