-- ==== Sys2Proof/Laws/Checksum.lean ====
section
/-!
SUPPORT. The checksum of a list of bytes put together from two, and one more byte in the accumulator.
-/
namespace Sys2Proof.Machine

theorem csumFrom_append (i : Nat) (a b : List Byte) :
    csumFrom i (a ++ b) = csumFrom i a ^^^ csumFrom (i + a.length) b := by
  induction a generalizing i with
  | nil => simp [csumFrom]
  | cons x a ih =>
    simp only [List.cons_append, csumFrom, ih, List.length_cons, BitVec.xor_assoc]
    rw [show i + 1 + a.length = i + (a.length + 1) by omega]

/-- Only the position modulo 4 matters (R110). -/
theorem csumFrom_mod {i j : Nat} (h : i % 4 = j % 4) (a : List Byte) : csumFrom i a = csumFrom j a := by
  induction a generalizing i j with
  | nil => rfl
  | cons x a ih =>
    simp only [csumFrom, h]
    rw [ih (show (i + 1) % 4 = (j + 1) % 4 by omega)]

/-- One more byte keeps the accumulator the checksum of the bytes so far (R111). -/
theorem accumulated_snoc {s : State} {c : List Byte} (b : Byte) (h : Accumulated s c) :
    Accumulated (accByte b s) (c ++ [b]) := by
  obtain ⟨h1, h2⟩ := h
  refine ⟨?_, ?_⟩
  · simp [csum, csumFrom_append, csumFrom, h1, h2]
  · simp [BitVec.toNat_add, h2]

end Sys2Proof.Machine
end

