-- ==== Sys2Proof/Laws/Encoding.lean ====
section
/-!
SUPPORT. The fields of a command word and of a transaction that were put together from fields, and the words put
together from their own fields.
-/
namespace Sys2Proof

theorem toNat_append_add {m n : Nat} (a : BitVec m) (b : BitVec n) :
    (a ++ b).toNat = a.toNat * 2 ^ n + b.toNat := by
  rw [BitVec.toNat_append, ← Nat.shiftLeft_add_eq_or_of_lt b.isLt, Nat.shiftLeft_eq]

theorem cmdWord_toNat (op lo : BitVec 4) (arg : Byte) (hi : BitVec 16) :
    (cmdWord op lo arg hi).toNat = ((hi.toNat * 2 ^ 8 + arg.toNat) * 2 ^ 4 + lo.toNat) * 2 ^ 4 + op.toNat := by
  simp only [cmdWord, toNat_append_add]

theorem portWord_toNat (sel we : BitVec 1) (addr : Index) (data : Word) :
    (portWord sel we addr data).toNat =
      ((sel.toNat * 2 ^ 1 + we.toNat) * 2 ^ 12 + addr.toNat) * 2 ^ 32 + data.toNat := by
  simp only [portWord, toNat_append_add]

@[simp] theorem cmdOp_cmdWord (op lo : BitVec 4) (arg : Byte) (hi : BitVec 16) :
    cmdOp (cmdWord op lo arg hi) = op := by
  apply BitVec.eq_of_toNat_eq
  simp only [cmdOp, BitVec.extractLsb'_toNat, cmdWord_toNat, Nat.shiftRight_eq_div_pow]
  omega

@[simp] theorem cmdLo_cmdWord (op lo : BitVec 4) (arg : Byte) (hi : BitVec 16) :
    cmdLo (cmdWord op lo arg hi) = lo := by
  apply BitVec.eq_of_toNat_eq
  simp only [cmdLo, BitVec.extractLsb'_toNat, cmdWord_toNat, Nat.shiftRight_eq_div_pow]
  omega

@[simp] theorem cmdArg_cmdWord (op lo : BitVec 4) (arg : Byte) (hi : BitVec 16) :
    cmdArg (cmdWord op lo arg hi) = arg := by
  apply BitVec.eq_of_toNat_eq
  simp only [cmdArg, BitVec.extractLsb'_toNat, cmdWord_toNat, Nat.shiftRight_eq_div_pow]
  omega

@[simp] theorem cmdHi_cmdWord (op lo : BitVec 4) (arg : Byte) (hi : BitVec 16) :
    cmdHi (cmdWord op lo arg hi) = hi := by
  apply BitVec.eq_of_toNat_eq
  simp only [cmdHi, BitVec.extractLsb'_toNat, cmdWord_toNat, Nat.shiftRight_eq_div_pow]
  omega

theorem cmdWord_fields (w : Word) : cmdWord (cmdOp w) (cmdLo w) (cmdArg w) (cmdHi w) = w := by
  apply BitVec.eq_of_toNat_eq
  simp only [cmdWord_toNat, cmdOp, cmdLo, cmdArg, cmdHi, BitVec.extractLsb'_toNat, Nat.shiftRight_eq_div_pow]
  omega

@[simp] theorem portSel_portWord (sel we : BitVec 1) (addr : Index) (data : Word) :
    portSel (portWord sel we addr data) = sel := by
  apply BitVec.eq_of_toNat_eq
  simp only [portSel, BitVec.extractLsb'_toNat, portWord_toNat, Nat.shiftRight_eq_div_pow]
  omega

@[simp] theorem portWe_portWord (sel we : BitVec 1) (addr : Index) (data : Word) :
    portWe (portWord sel we addr data) = we := by
  apply BitVec.eq_of_toNat_eq
  simp only [portWe, BitVec.extractLsb'_toNat, portWord_toNat, Nat.shiftRight_eq_div_pow]
  omega

@[simp] theorem portAddr_portWord (sel we : BitVec 1) (addr : Index) (data : Word) :
    portAddr (portWord sel we addr data) = addr := by
  apply BitVec.eq_of_toNat_eq
  simp only [portAddr, BitVec.extractLsb'_toNat, portWord_toNat, Nat.shiftRight_eq_div_pow]
  omega

@[simp] theorem portData_portWord (sel we : BitVec 1) (addr : Index) (data : Word) :
    portData (portWord sel we addr data) = data := by
  apply BitVec.eq_of_toNat_eq
  simp only [portData, BitVec.extractLsb'_toNat, portWord_toNat, Nat.shiftRight_eq_div_pow]
  omega

theorem portWord_fields (w : PortWord) : portWord (portSel w) (portWe w) (portAddr w) (portData w) = w := by
  apply BitVec.eq_of_toNat_eq
  simp only [portWord_toNat, portSel, portWe, portAddr, portData, BitVec.extractLsb'_toNat,
    Nat.shiftRight_eq_div_pow]
  omega

end Sys2Proof
end

