-- ==== Sys2Proof/Laws/Memory.lean ====
section
/-!
SUPPORT. The laws of the content buffers' memory: a read after a write, the canonical form, and that equal reads of
canonical memories mean equal memories.
-/
namespace Sys2Proof.Machine

@[simp] theorem Memory.read_nil (i : Nat) : Memory.read [] i = none := rfl

theorem Memory.read_cons (a : Nat) (b : Byte) (m : Memory) (i : Nat) :
    Memory.read ((a, b) :: m) i = if i = a then some b else Memory.read m i := rfl

/-- A read after a write gives the value written at its index and what it gave before everywhere else. -/
theorem Memory.read_write (m : Memory) (i j : Nat) (v : Byte) :
    (m.write i v).read j = if j = i then some v else m.read j := by
  induction m with
  | nil => simp [Memory.write, Memory.read_cons]
  | cons c m ih =>
    obtain ⟨a, b⟩ := c
    simp only [Memory.write]
    split
    · simp [Memory.read_cons]
    · split
      · subst i
        by_cases h : j = a <;> simp [Memory.read_cons, h]
      · simp only [Memory.read_cons, ih]
        by_cases h : j = a
        · subst j
          simp_all [eq_comm]
        · simp [h]

@[simp] theorem Memory.read_write_same (m : Memory) (i : Nat) (v : Byte) : (m.write i v).read i = some v := by
  simp [Memory.read_write]

theorem Memory.read_write_other (m : Memory) {i j : Nat} (v : Byte) (h : j ≠ i) :
    (m.write i v).read j = m.read j := by
  simp [Memory.read_write, h]

theorem Memory.wfFrom_write (m : Memory) (lo i : Nat) (v : Byte) (hlo : lo ≤ i) (hi : i < 0x200)
    (h : Memory.wfFrom lo m = true) : Memory.wfFrom lo (m.write i v) = true := by
  induction m generalizing lo with
  | nil => simp [Memory.write, Memory.wfFrom, hlo, hi]
  | cons c m ih =>
    obtain ⟨a, b⟩ := c
    simp only [Memory.wfFrom, Bool.and_eq_true, decide_eq_true_eq] at h
    simp only [Memory.write]
    split
    · simp [Memory.wfFrom, hlo, hi, h]
      omega
    · split
      · simp [Memory.wfFrom, h, show i = a by assumption]
      · simp only [Memory.wfFrom, Bool.and_eq_true, decide_eq_true_eq]
        exact ⟨h.1, ih (a + 1) (by omega) h.2⟩

/-- A write of an entry of the buffers keeps the canonical form. -/
theorem Memory.wf_write (m : Memory) (i : Nat) (v : Byte) (hi : i < 0x200) (h : m.wf = true) :
    (m.write i v).wf = true := Memory.wfFrom_write m 0 i v (Nat.zero_le i) hi h

theorem Memory.read_below (m : Memory) (lo i : Nat) (h : Memory.wfFrom lo m = true) (hi : i < lo) :
    m.read i = none := by
  induction m generalizing lo with
  | nil => rfl
  | cons c m ih =>
    obtain ⟨a, b⟩ := c
    simp only [Memory.wfFrom, Bool.and_eq_true, decide_eq_true_eq] at h
    rw [Memory.read_cons, if_neg (by omega)]
    exact ih (a + 1) h.2 (by omega)

/-- A canonical memory lists nothing outside the buffers. -/
theorem Memory.read_above (m : Memory) (lo i : Nat) (h : Memory.wfFrom lo m = true) (hi : 0x200 ≤ i) :
    m.read i = none := by
  induction m generalizing lo with
  | nil => rfl
  | cons c m ih =>
    obtain ⟨a, b⟩ := c
    simp only [Memory.wfFrom, Bool.and_eq_true, decide_eq_true_eq] at h
    rw [Memory.read_cons, if_neg (by omega)]
    exact ih (a + 1) h.2

theorem Memory.wfFrom_mono (m : Memory) (lo lo' : Nat) (h : Memory.wfFrom lo m = true) (hl : lo' ≤ lo) :
    Memory.wfFrom lo' m = true := by
  cases m with
  | nil => rfl
  | cons c m =>
    obtain ⟨a, b⟩ := c
    simp only [Memory.wfFrom, Bool.and_eq_true, decide_eq_true_eq] at h ⊢
    exact ⟨⟨by omega, h.1.2⟩, h.2⟩

theorem Memory.ext_from (m m' : Memory) (lo : Nat) (h : Memory.wfFrom lo m = true)
    (h' : Memory.wfFrom lo m' = true) (e : ∀ i, m.read i = m'.read i) : m = m' := by
  induction m generalizing m' lo with
  | nil =>
    cases m' with
    | nil => rfl
    | cons c m' =>
      obtain ⟨a, b⟩ := c
      have := e a
      simp [Memory.read_cons] at this
  | cons c m ih =>
    obtain ⟨a, b⟩ := c
    cases m' with
    | nil =>
      have := e a
      simp [Memory.read_cons] at this
    | cons c' m' =>
      obtain ⟨a', b'⟩ := c'
      simp only [Memory.wfFrom, Bool.and_eq_true, decide_eq_true_eq] at h h'
      have haa : a = a' := by
        rcases Nat.lt_trichotomy a a' with hlt | heq | hlt
        · have := e a
          rw [Memory.read_cons, if_pos rfl, Memory.read_cons, if_neg (by omega),
            Memory.read_below m' (a' + 1) a h'.2 (by omega)] at this
          cases this
        · exact heq
        · have := e a'
          rw [Memory.read_cons a' b', if_pos rfl, Memory.read_cons, if_neg (by omega),
            Memory.read_below m (a + 1) a' h.2 (by omega)] at this
          cases this
      subst haa
      have hb := e a
      rw [Memory.read_cons, if_pos rfl, Memory.read_cons, if_pos rfl] at hb
      cases hb
      congr 1
      refine ih m' (a + 1) h.2 h'.2 fun i => ?_
      have hi := e i
      rw [Memory.read_cons, Memory.read_cons] at hi
      by_cases hia : i = a
      · subst hia
        rw [Memory.read_below m (i + 1) i h.2 (by omega), Memory.read_below m' (i + 1) i h'.2 (by omega)]
      · rwa [if_neg hia, if_neg hia] at hi

/-- Canonical memories that read the same are the same data. -/
theorem Memory.ext_wf (m m' : Memory) (h : m.wf = true) (h' : m'.wf = true) (e : ∀ i, m.read i = m'.read i) :
    m = m' := Memory.ext_from m m' 0 h h' e

end Sys2Proof.Machine
end

