-- ==== Sys2Proof/Laws/Ops.lean ====
section
/-!
SUPPORT. For each shared operation, what it answers and everything it can do, so that a proof about a step cites one
lemma instead of unfolding it.
-/
namespace Sys2Proof.Machine

/-! ### One step -/

/-- A step answers a next state by reset or by its action. -/
theorem inStep_next {act : StepIn → State → Except Fault State} {s t : State} :
    inStep act s = .next t ↔
      (s.input.rst = true ∧ t = resetStep s) ∨ (s.input.rst = false ∧ act s.input (beginStep s) = .ok t) := by
  unfold inStep
  cases h : s.input.rst
  · cases h2 : act s.input (beginStep s) <;> simp
  · simp [eq_comm]

theorem inStep_fault {act : StepIn → State → Except Fault State} {s : State} {f : Fault} :
    inStep act s = .fault f ↔ s.input.rst = false ∧ act s.input (beginStep s) = .error f := by
  unfold inStep
  cases h : s.input.rst
  · cases h2 : act s.input (beginStep s) <;> simp
  · simp

theorem inStep_ne_refused (act : StepIn → State → Except Fault State) (s : State) (r : Refusal) :
    inStep act s ≠ .refused r := by
  unfold inStep
  cases s.input.rst
  · cases act s.input (beginStep s) <;> simp
  · simp

theorem inStep_of_ok {act : StepIn → State → Except Fault State} {s t : State} (h : s.input.rst = false)
    (ha : act s.input (beginStep s) = .ok t) : inStep act s = .next t := inStep_next.2 (Or.inr ⟨h, ha⟩)

/-! ### The content buffers -/

theorem readTx_ok {s : State} {k : Nat} {b : Byte} :
    readTx s k = .ok b ↔ k < Config.bufSize ∧ s.mem.read (txIndex k) = some b := by
  unfold readTx
  split
  · cases h : s.mem.read (txIndex k) <;> simp_all
  · simp_all

theorem readTx_error {s : State} {k : Nat} {f : Fault} (h : readTx s k = .error f) :
    (k < Config.bufSize ∧ s.mem.read (txIndex k) = none ∧ f = .encodeNeverWritten k) ∨
      (Config.bufSize ≤ k ∧ f = .noSuchEntry k) := by
  unfold readTx at h
  split at h
  · cases h2 : s.mem.read (txIndex k) <;> simp_all
  · simp_all

theorem writeRx_ok {s t : State} {k : Nat} {b : Byte} :
    writeRx k b s = .ok t ↔ k < Config.bufSize ∧ t = storeRx k b s := by
  unfold writeRx
  split <;> simp_all [eq_comm]

/-! ### The sequencer -/

/-- The three things a step of SYNC, HDR or BODY can do (R131, R151, R154). -/
theorem rxStep_ok {f : Byte → State → Except Fault State} {inp : StepIn} {s t : State} :
    rxStep f inp s = .ok t ↔
      (inp.expired = true ∧ t = finish .timeoutReached s) ∨
      (inp.expired = false ∧ s.chan = [] ∧ t = s) ∨
      (∃ b rest, inp.expired = false ∧ s.chan = b :: rest ∧ f b (takeByte rest s) = .ok t) := by
  unfold rxStep
  cases inp.expired
  · cases h : s.chan <;> simp [eq_comm]
  · simp [eq_comm]

theorem rxStep_error {f : Byte → State → Except Fault State} {inp : StepIn} {s : State} {e : Fault} :
    rxStep f inp s = .error e ↔
      ∃ b rest, inp.expired = false ∧ s.chan = b :: rest ∧ f b (takeByte rest s) = .error e := by
  unfold rxStep
  cases inp.expired
  · cases h : s.chan <;> simp
  · simp

/-- What SYNC does with a byte: the marker ends the phase, or the window holds the byte (R131). -/
theorem syncByte_cases (b : Byte) (s : State) :
    (s.winN = true ∧ s.winB = Config.magicB0 ∧ b = Config.magicB1 ∧
      syncByte b s = { s with winN := false, winB := 0#8, hidx := 0#4, phase := .hdr }) ∨
    (¬ (s.winN = true ∧ s.winB = Config.magicB0 ∧ b = Config.magicB1) ∧
      syncByte b s = { s with winN := true, winB := b }) := by
  unfold syncByte
  split
  · rename_i h
    simp only [Bool.and_eq_true, beq_iff_eq] at h
    exact Or.inl ⟨h.1.1, h.1.2, h.2, rfl⟩
  · rename_i h
    refine Or.inr ⟨fun h2 => h ?_, rfl⟩
    simp [h2.1, h2.2.1, h2.2.2]

/-- The legal lengths of CONTENT_LENGTH lie between 2 and 8 (R8). -/
theorem len_range (p : Params) : 2 ≤ p.len ∧ p.len ≤ 8 := by
  unfold Params.len
  cases p.lenBytes <;> simp [LenBytes.toNat]

/-- A header byte changes one RX field and nothing else (R152). -/
theorem placeHeaderByte_eq (h : Nat) (b : Byte) (s : State) :
    placeHeaderByte h b s =
      { s with
        rxVersion := (placeHeaderByte h b s).rxVersion
        rxMeta := (placeHeaderByte h b s).rxMeta
        rxType := (placeHeaderByte h b s).rxType
        rxlen := (placeHeaderByte h b s).rxlen
        rxCsum := (placeHeaderByte h b s).rxCsum } := by
  unfold placeHeaderByte
  split <;> rfl

/-! What each RX field holds after a header byte (R152). -/

theorem placeHeaderByte_rxVersion (h : Nat) (b : Byte) (s : State) :
    (placeHeaderByte h b s).rxVersion = if h = 0 then b else s.rxVersion := by
  by_cases h0 : h = 0
  · simp [placeHeaderByte, hdrField, h0]
  · by_cases h1 : h = 1
    · simp [placeHeaderByte, hdrField, h1]
    · by_cases h2 : h = 2
      · simp [placeHeaderByte, hdrField, h2]
      · by_cases h3 : h ≤ 2 + s.params.len <;> simp [placeHeaderByte, hdrField, h0, h1, h2, h3]

theorem placeHeaderByte_rxMeta (h : Nat) (b : Byte) (s : State) :
    (placeHeaderByte h b s).rxMeta = if h = 1 then b else s.rxMeta := by
  by_cases h0 : h = 0
  · simp [placeHeaderByte, hdrField, h0]
  · by_cases h1 : h = 1
    · simp [placeHeaderByte, hdrField, h1]
    · by_cases h2 : h = 2
      · simp [placeHeaderByte, hdrField, h2]
      · by_cases h3 : h ≤ 2 + s.params.len <;> simp [placeHeaderByte, hdrField, h0, h1, h2, h3]

theorem placeHeaderByte_rxType (h : Nat) (b : Byte) (s : State) :
    (placeHeaderByte h b s).rxType = if h = 2 then b else s.rxType := by
  by_cases h0 : h = 0
  · simp [placeHeaderByte, hdrField, h0]
  · by_cases h1 : h = 1
    · simp [placeHeaderByte, hdrField, h1]
    · by_cases h2 : h = 2
      · simp [placeHeaderByte, hdrField, h2]
      · by_cases h3 : h ≤ 2 + s.params.len <;> simp [placeHeaderByte, hdrField, h0, h1, h2, h3]

theorem placeHeaderByte_rxlen (h : Nat) (b : Byte) (s : State) :
    (placeHeaderByte h b s).rxlen =
      if 3 ≤ h ∧ h ≤ 2 + s.params.len then placeByte s.params.byteOrder s.params.len (h - 3) b s.rxlen
      else s.rxlen := by
  by_cases h0 : h = 0
  · simp [placeHeaderByte, hdrField, h0]
  · by_cases h1 : h = 1
    · simp [placeHeaderByte, hdrField, h1]
    · by_cases h2 : h = 2
      · simp [placeHeaderByte, hdrField, h2]
      · by_cases h3 : h ≤ 2 + s.params.len <;>
          simp [placeHeaderByte, hdrField, h0, h1, h2, h3, show 3 ≤ h by omega]

theorem placeHeaderByte_rxCsum (h : Nat) (b : Byte) (s : State) :
    (placeHeaderByte h b s).rxCsum =
      if 3 + s.params.len ≤ h then placeByte s.params.byteOrder 4 (h - 3 - s.params.len) b s.rxCsum
      else s.rxCsum := by
  by_cases h0 : h = 0
  · simp [placeHeaderByte, hdrField, h0]
  · by_cases h1 : h = 1
    · simp [placeHeaderByte, hdrField, h1, show ¬ 3 + s.params.len ≤ 1 by omega]
    · by_cases h2 : h = 2
      · simp [placeHeaderByte, hdrField, h2, show ¬ 3 + s.params.len ≤ 2 by omega]
      · by_cases h3 : h ≤ 2 + s.params.len
        · simp [placeHeaderByte, hdrField, h0, h1, h2, h3, show ¬ 3 + s.params.len ≤ h by omega]
        · simp [placeHeaderByte, hdrField, h0, h1, h2, h3, show 3 + s.params.len ≤ h by omega]
/-- The three ends of the length check (R153). -/
theorem checkLength_cases (s : State) :
    (s.rxlen = 0#64 ∧ checkLength s = finish .malformed s) ∨
    (Config.maxContent < s.rxlen.toNat ∧ checkLength s = finish .contentLengthExceeded s) ∨
    (1 ≤ s.rxlen.toNat ∧ s.rxlen.toNat ≤ Config.maxContent ∧
      checkLength s = startBody s) := by
  unfold checkLength
  split
  · exact Or.inl ⟨by assumption, rfl⟩
  · rename_i h0
    have h1 : s.rxlen.toNat ≠ 0 := fun h => h0 (BitVec.eq_of_toNat_eq (by simpa using h))
    split
    · exact Or.inr (Or.inl ⟨by assumption, rfl⟩)
    · exact Or.inr (Or.inr ⟨by omega, by omega, rfl⟩)

/-- What HDR does with a byte: the last one is followed by the length check (R151). -/
theorem hdrByte_cases (b : Byte) (s : State) :
    (s.hidx.toNat = s.params.hlen - 1 ∧ hdrByte b s = checkLength (placeHeaderByte s.hidx.toNat b s)) ∨
    (s.hidx.toNat ≠ s.params.hlen - 1 ∧ hdrByte b s = countHeader (placeHeaderByte s.hidx.toNat b s)) := by
  unfold hdrByte
  by_cases h : s.hidx.toNat = s.params.hlen - 1
  · exact Or.inl ⟨h, if_pos h⟩
  · exact Or.inr ⟨h, if_neg h⟩

/-- The two ends of the checksum comparison (R155). -/
theorem compareChecksum_cases (s : State) :
    (s.acc = s.rxCsum ∧ compareChecksum s = acceptFrame s) ∨
    (s.acc ≠ s.rxCsum ∧ compareChecksum s = finish .crcMismatch s) := by
  unfold compareChecksum
  split
  · exact Or.inl ⟨by assumption, rfl⟩
  · exact Or.inr ⟨by assumption, rfl⟩

/-- What BODY does with a byte (R154): it is stored and accumulated, and the last one is followed by the comparison. -/
theorem bodyByte_ok {b : Byte} {s t : State} :
    bodyByte b s = .ok t ↔
      s.cnt.toNat < Config.bufSize ∧
      ((s.cnt.toNat + 1 = s.rxlen.toNat ∧
          t = compareChecksum (countContent (accByte b (storeRx s.cnt.toNat b s)))) ∨
        (s.cnt.toNat + 1 ≠ s.rxlen.toNat ∧ t = countContent (accByte b (storeRx s.cnt.toNat b s)))) := by
  unfold bodyByte writeRx
  by_cases h : s.cnt.toNat < Config.bufSize
  · by_cases h2 : s.cnt.toNat + 1 = s.rxlen.toNat <;> simp [h, h2, eq_comm]
  · simp [h]

theorem bodyByte_error {b : Byte} {s : State} {f : Fault} :
    bodyByte b s = .error f ↔ Config.bufSize ≤ s.cnt.toNat ∧ f = .noSuchEntry s.cnt.toNat := by
  unfold bodyByte writeRx
  by_cases h : s.cnt.toNat < Config.bufSize
  · by_cases h2 : s.cnt.toNat + 1 = s.rxlen.toNat <;> simp [h, h2]
  · simp [h, eq_comm, Nat.not_lt.1 h]

/-- What a CALC step does (R181). -/
theorem calcStep_ok {s t : State} :
    calcStep s = .ok t ↔
      ∃ b, s.cnt.toNat < Config.bufSize ∧ s.mem.read (txIndex s.cnt.toNat) = some b ∧
        ((s.cnt.toNat + 1 = s.txLen.toNat ∧ t = startEmit (countContent (accByte b s))) ∨
          (s.cnt.toNat + 1 ≠ s.txLen.toNat ∧ t = countContent (accByte b s))) := by
  unfold calcStep
  cases h : readTx s s.cnt.toNat with
  | error f =>
    simp only [reduceCtorEq, false_iff, not_exists]
    rintro b ⟨h1, h2, -⟩
    rw [readTx_ok.2 ⟨h1, h2⟩] at h
    cases h
  | ok b =>
    obtain ⟨h1, h2⟩ := readTx_ok.1 h
    constructor
    · intro e
      refine ⟨b, h1, h2, ?_⟩
      by_cases h3 : s.cnt.toNat + 1 = s.txLen.toNat <;> simp_all [eq_comm]
    · rintro ⟨b', -, h2', h3⟩
      rw [h2] at h2'
      cases h2'
      rcases h3 with ⟨h3, rfl⟩ | ⟨h3, rfl⟩ <;> simp [h3]

/-- What an EMIT step does (R183). -/
theorem emitStep_ok {s t : State} :
    emitStep s = .ok t ↔
      ∃ b, frameByte s s.eidx.toNat = .ok b ∧
        ((s.eidx.toNat + 1 = s.params.overhead + s.txLen.toNat ∧ t = finish .ok (countSent (txEmit b s))) ∨
          (s.eidx.toNat + 1 ≠ s.params.overhead + s.txLen.toNat ∧ t = countSent (txEmit b s))) := by
  unfold emitStep
  cases h : frameByte s s.eidx.toNat with
  | error f => simp
  | ok b => by_cases h2 : s.eidx.toNat + 1 = s.params.overhead + s.txLen.toNat <;> simp [h2, eq_comm]

/-- What no action of the sequencer changes: the parameters, OVR, the TX registers, the read data, the inputs and the
entries of TXBUF (R201). -/
theorem phaseStep_frame {inp : StepIn} {s t : State} (h : phaseStep inp s = .ok t) :
    t.params = s.params ∧ t.ovr = s.ovr ∧ t.txMeta = s.txMeta ∧ t.txType = s.txType ∧ t.txLen = s.txLen ∧
      t.regRdata = s.regRdata ∧ t.inputs = s.inputs ∧ ∀ a, a < 0x100 → t.mem.read a = s.mem.read a := by
  unfold phaseStep at h
  split at h
  · cases h
    simp
  · rcases rxStep_ok.1 h with ⟨-, rfl⟩ | ⟨-, -, rfl⟩ | ⟨b, rest, -, -, h⟩
    · simp
    · simp
    · cases h
      rcases syncByte_cases b (takeByte rest s) with ⟨-, -, -, e⟩ | ⟨-, e⟩ <;> simp [e]
  · rcases rxStep_ok.1 h with ⟨-, rfl⟩ | ⟨-, -, rfl⟩ | ⟨b, rest, -, -, h⟩
    · simp
    · simp
    · cases h
      unfold hdrByte
      split
      · rcases checkLength_cases (placeHeaderByte (takeByte rest s).hidx.toNat b (takeByte rest s)) with
          ⟨-, e⟩ | ⟨-, e⟩ | ⟨-, -, e⟩ <;> rw [e, placeHeaderByte_eq] <;> simp
      · rw [placeHeaderByte_eq]
        simp
  · rcases rxStep_ok.1 h with ⟨-, rfl⟩ | ⟨-, -, rfl⟩ | ⟨b, rest, -, -, h⟩
    · simp
    · simp
    · have hm : ∀ a, a < 0x100 → (s.mem.write (rxIndex s.cnt.toNat) b).read a = s.mem.read a := fun a ha =>
        Memory.read_write_other _ _ (by unfold rxIndex; omega)
      obtain ⟨-, ⟨-, rfl⟩ | ⟨-, rfl⟩⟩ := bodyByte_ok.1 h
      · rcases compareChecksum_cases (countContent (accByte b (storeRx (takeByte rest s).cnt.toNat b (takeByte rest s))))
          with ⟨-, e⟩ | ⟨-, e⟩ <;> rw [e] <;> simpa using hm
      · simpa using hm
  · obtain ⟨b, -, -, ⟨-, rfl⟩ | ⟨-, rfl⟩⟩ := calcStep_ok.1 h <;> simp
  · obtain ⟨b, -, ⟨-, rfl⟩ | ⟨-, rfl⟩⟩ := emitStep_ok.1 h <;> simp

/-! ### The index map -/

/-- The register at an index, by the ranges of the map (R27). -/
theorem regAt_txbuf {i : Index} (h : i.toNat < 0x100) : regAt i = .txbuf (i.setWidth 8) := by
  unfold regAt
  rw [if_pos (by omega)]

theorem regAt_rxbuf {i : Index} (h : 0x100 ≤ i.toNat) (h' : i.toNat < 0x200) : regAt i = .rxbuf (i.setWidth 8) := by
  unfold regAt
  rw [if_neg (by omega), if_pos (by omega)]

theorem regAt_reserved {i : Index} (h : 0x20E ≤ i.toNat) : regAt i = .reserved := by
  unfold regAt
  rw [if_neg (by omega), if_neg (by omega)]
  split <;> first | omega | rfl

/-- Every index is in TXBUF, in RXBUF, one of the fourteen registers or reserved (R27). -/
theorem regAt_cases (i : Index) :
    (i.toNat < 0x100 ∧ regAt i = .txbuf (i.setWidth 8)) ∨
    (0x100 ≤ i.toNat ∧ i.toNat < 0x200 ∧ regAt i = .rxbuf (i.setWidth 8)) ∨
    (0x200 ≤ i.toNat ∧ i.toNat < 0x20E) ∨ (0x20E ≤ i.toNat ∧ regAt i = .reserved) := by
  by_cases h1 : i.toNat < 0x100
  · exact Or.inl ⟨h1, regAt_txbuf h1⟩
  · by_cases h2 : i.toNat < 0x200
    · exact Or.inr (Or.inl ⟨by omega, h2, regAt_rxbuf (by omega) h2⟩)
    · by_cases h3 : i.toNat < 0x20E
      · exact Or.inr (Or.inr (Or.inl ⟨by omega, h3⟩))
      · exact Or.inr (Or.inr (Or.inr ⟨by omega, regAt_reserved (by omega)⟩))

/-! ### The accesses -/

/-- A busy TX write changes OVR only; another one does what it says (R207). -/
theorem txWrite_eq (e : Bool) (put : State → State) (t : State) :
    txWrite e put t = if e = true then setOvr t else put t := by
  cases e <;> rfl

/-- A host write changes OVR, the TX registers and TXBUF at most (R203). -/
theorem hostWrite_eq (e : Bool) (i : Index) (w : Word) (t : State) :
    hostWrite e i w t =
      { t with
        ovr := (hostWrite e i w t).ovr
        txMeta := (hostWrite e i w t).txMeta
        txType := (hostWrite e i w t).txType
        txLen := (hostWrite e i w t).txLen
        mem := (hostWrite e i w t).mem } := by
  unfold hostWrite
  split <;> try rfl
  all_goals first
    | (unfold txWrite; cases e <;> rfl)
    | (unfold writeStatus; split <;> rfl)

/-- A host write stores in TXBUF, outside ENCODE, or leaves the buffers as they are (R203). -/
theorem hostWrite_mem (e : Bool) (i : Index) (w : Word) (t : State) :
    (hostWrite e i w t).mem = t.mem ∨
      (e = false ∧ i.toNat < 0x100 ∧ (hostWrite e i w t).mem = t.mem.write (txIndex i.toNat) (w.setWidth 8)) := by
  rcases regAt_cases i with ⟨h, e1⟩ | ⟨-, -, e1⟩ | ⟨h1, h2⟩ | ⟨-, e1⟩
  · cases e
    · refine Or.inr ⟨rfl, h, ?_⟩
      have : i.toNat % 256 = i.toNat := by omega
      simp [hostWrite, e1, txWrite, this]
    · simp [hostWrite, e1, txWrite]
  · simp [hostWrite, e1]
  · left
    unfold hostWrite
    split <;> try rfl
    · rename_i k hk
      exfalso
      unfold regAt at hk
      rw [if_neg (by omega), if_neg (by omega)] at hk
      split at hk <;> cases hk
    all_goals first
      | (unfold txWrite; cases e <;> rfl)
      | (unfold writeStatus; split <;> rfl)
  · simp [hostWrite, e1]

/-- While ENCODE runs a host write leaves the TX registers as they are (R203, R207). -/
theorem hostWrite_busy_tx (i : Index) (w : Word) (t : State) :
    (hostWrite true i w t).txMeta = t.txMeta ∧ (hostWrite true i w t).txType = t.txType ∧
      (hostWrite true i w t).txLen = t.txLen := by
  unfold hostWrite
  split <;> try exact ⟨rfl, rfl, rfl⟩
  unfold writeStatus
  split <;> exact ⟨rfl, rfl, rfl⟩

/-- A read step's next state: that of the same step without an access, with the read data (R26, R201). -/
theorem readStep_next {i : Index} {s t : State} :
    readStep i s = .next t ↔
      (s.input.rst = true ∧ t = resetStep s) ∨
      (s.input.rst = false ∧ ∃ v u, hostRead (beginStep s) i = .ok v ∧ phaseStep s.input (beginStep s) = .ok u ∧
        t = { u with regRdata := v }) := by
  unfold readStep
  rw [inStep_next]
  cases hostRead (beginStep s) i <;> cases phaseStep s.input (beginStep s) <;> simp [@eq_comm _ t]

/-- A write step's next state: that of the same step without an access, then `HostWrite` (R201, R203). -/
theorem writeStep_next {i : Index} {w : Word} {s t : State} :
    writeStep i w s = .next t ↔
      (s.input.rst = true ∧ t = resetStep s) ∨
      (s.input.rst = false ∧ ∃ u, phaseStep s.input (beginStep s) = .ok u ∧ t = hostWrite s.encBusy i w u) := by
  unfold writeStep
  rw [inStep_next]
  have : (beginStep s).encBusy = s.encBusy := rfl
  cases phaseStep s.input (beginStep s) <;> simp [@eq_comm _ t, this]

theorem skipStep_next {s t : State} :
    skipStep s = .next t ↔
      (s.input.rst = true ∧ t = resetStep s) ∨
      (s.input.rst = false ∧ phaseStep s.input (beginStep s) = .ok t) := inStep_next

/-- A step with a write of CMD: dispatched in IDLE, dropped with OVR set otherwise (R204, R207). -/
theorem commandStep_next {start : State → State} {s t : State} :
    commandStep start s = .next t ↔
      (s.input.rst = true ∧ t = resetStep s) ∨
      (s.input.rst = false ∧ s.phase = .idle ∧ t = start (beginStep s)) ∨
      (s.input.rst = false ∧ s.phase ≠ .idle ∧ ∃ u, phaseStep s.input (beginStep s) = .ok u ∧ t = setOvr u) := by
  unfold commandStep
  rw [inStep_next]
  cases h : s.phase <;> cases phaseStep s.input (beginStep s) <;> simp [h, @eq_comm _ t]

end Sys2Proof.Machine
end

