-- ==== Sys2Proof/Laws/Exec.lean ====
section
/-!
SUPPORT. What exec does, said once: every instruction is one of six kinds of step, and a step that answers a next
state is a reset step or has one of the shapes of `exec_next`.
-/
namespace Sys2Proof.Machine

theorem dispatch_nop {w : Word} (h : cmdOp w = 0x0#4) (s : State) : dispatch w s = nopStart s := by
  simp [dispatch, h]

theorem dispatch_decode {w : Word} (h : cmdOp w = 0x1#4) (s : State) : dispatch w s = decodeStart s := by
  simp [dispatch, h]

theorem dispatch_encode {w : Word} (h : cmdOp w = 0x2#4) (s : State) : dispatch w s = encodeStart s := by
  simp [dispatch, h]

theorem dispatch_csumClear {w : Word} (h : cmdOp w = 0x3#4) (s : State) : dispatch w s = csumClearStart s := by
  simp [dispatch, h]

theorem dispatch_csumAcc {w : Word} (h : cmdOp w = 0x4#4) (s : State) :
    dispatch w s = csumAccStart (cmdArg w) s := by
  simp [dispatch, h]

theorem dispatch_illegal {w : Word} (h : 0x5 ≤ (cmdOp w).toNat) (s : State) : dispatch w s = illegalStart s := by
  unfold dispatch
  split <;> first | rfl | omega

/-- A command word runs the command of its OP (R91, R204). -/
theorem exec_decodeCmd (w : Word) (s : State) : exec (decodeCmd w) s = commandStep (dispatch w) s := by
  have hlt : (cmdOp w).toNat < 16 := (cmdOp w).isLt
  obtain ⟨n, hn⟩ : ∃ n, (cmdOp w).toNat = n := ⟨_, rfl⟩
  rw [hn] at hlt
  interval_cases n
  · exact (by simp only [decodeCmd, hn]; rfl : exec (decodeCmd w) s = commandStep nopStart s).trans
      (congrArg (commandStep · s) (funext fun u => (dispatch_nop (BitVec.eq_of_toNat_eq hn) u).symm))
  · exact (by simp only [decodeCmd, hn]; rfl : exec (decodeCmd w) s = commandStep decodeStart s).trans
      (congrArg (commandStep · s) (funext fun u => (dispatch_decode (BitVec.eq_of_toNat_eq hn) u).symm))
  · exact (by simp only [decodeCmd, hn]; rfl : exec (decodeCmd w) s = commandStep encodeStart s).trans
      (congrArg (commandStep · s) (funext fun u => (dispatch_encode (BitVec.eq_of_toNat_eq hn) u).symm))
  · exact (by simp only [decodeCmd, hn]; rfl : exec (decodeCmd w) s = commandStep csumClearStart s).trans
      (congrArg (commandStep · s) (funext fun u => (dispatch_csumClear (BitVec.eq_of_toNat_eq hn) u).symm))
  · exact (by simp only [decodeCmd, hn]; rfl : exec (decodeCmd w) s = commandStep (csumAccStart (cmdArg w)) s).trans
      (congrArg (commandStep · s) (funext fun u => (dispatch_csumAcc (BitVec.eq_of_toNat_eq hn) u).symm))
  all_goals
    exact (by simp only [decodeCmd, hn]; rfl : exec (decodeCmd w) s = commandStep illegalStart s).trans
      (congrArg (commandStep · s) (funext fun u => (dispatch_illegal (by omega) u).symm))

/-- The kinds of step, by the instruction. -/
theorem exec_kind (i : Instr) :
    (∃ w, encode i = .cmd w ∧ ∀ s, exec i s = commandStep (dispatch w) s) ∨
    (∃ a wd, i = .hostRd a wd ∧ ∀ s, exec i s = readStep a s) ∨
    (∃ w, i = .hostWr Config.cmdIndex w ∧ ∀ s, exec i s = commandStep (dispatch w) s) ∨
    (∃ a w, a ≠ Config.cmdIndex ∧ i = .hostWr a w ∧ ∀ s, exec i s = writeStep a w s) ∨
    (∃ we a wd, i = .skip we a wd ∧ ∀ s, exec i s = skipStep s) ∨
    (∃ c, encode i = .wireType c ∧ ∀ s, exec i s = presentStep c s) := by
  cases i with
  | hostRd a wd => exact Or.inr (Or.inl ⟨a, wd, rfl, fun _ => rfl⟩)
  | hostWr a w =>
    by_cases h : a = Config.cmdIndex
    · subst h
      exact Or.inr (Or.inr (Or.inl ⟨w, rfl, fun s => by simp [exec, execHostWr]⟩))
    · exact Or.inr (Or.inr (Or.inr (Or.inl ⟨a, w, h, rfl, fun s => by simp [exec, execHostWr, h]⟩)))
  | skip we a wd => exact Or.inr (Or.inr (Or.inr (Or.inr (Or.inl ⟨we, a, wd, rfl, fun _ => rfl⟩))))
  | typeDiscover => exact Or.inr (Or.inr (Or.inr (Or.inr (Or.inr ⟨_, rfl, fun _ => rfl⟩))))
  | typeAlive => exact Or.inr (Or.inr (Or.inr (Or.inr (Or.inr ⟨_, rfl, fun _ => rfl⟩))))
  | typeAck => exact Or.inr (Or.inr (Or.inr (Or.inr (Or.inr ⟨_, rfl, fun _ => rfl⟩))))
  | typeData => exact Or.inr (Or.inr (Or.inr (Or.inr (Or.inr ⟨_, rfl, fun _ => rfl⟩))))
  | typeFin => exact Or.inr (Or.inr (Or.inr (Or.inr (Or.inr ⟨_, rfl, fun _ => rfl⟩))))
  | nop lo arg hi =>
    exact Or.inl ⟨_, rfl, fun s => congrArg (commandStep · s) (funext fun u => (dispatch_nop (by simp) u).symm)⟩
  | decode lo arg hi =>
    exact Or.inl ⟨_, rfl, fun s => congrArg (commandStep · s) (funext fun u => (dispatch_decode (by simp) u).symm)⟩
  | encode lo arg hi =>
    exact Or.inl ⟨_, rfl, fun s => congrArg (commandStep · s) (funext fun u => (dispatch_encode (by simp) u).symm)⟩
  | csumClear lo arg hi =>
    exact Or.inl ⟨_, rfl, fun s => congrArg (commandStep · s) (funext fun u => (dispatch_csumClear (by simp) u).symm)⟩
  | csumAcc lo arg hi =>
    exact Or.inl ⟨_, rfl, fun s => congrArg (commandStep · s) (funext fun u => ((dispatch_csumAcc (by simp) u).trans (by rw [cmdArg_cmdWord])).symm)⟩
  | illegal5 lo arg hi =>
    exact Or.inl ⟨_, rfl, fun s => congrArg (commandStep · s) (funext fun u => (dispatch_illegal (by simp; try decide) u).symm)⟩
  | illegal6 lo arg hi =>
    exact Or.inl ⟨_, rfl, fun s => congrArg (commandStep · s) (funext fun u => (dispatch_illegal (by simp; try decide) u).symm)⟩
  | illegal7 lo arg hi =>
    exact Or.inl ⟨_, rfl, fun s => congrArg (commandStep · s) (funext fun u => (dispatch_illegal (by simp; try decide) u).symm)⟩
  | illegal8 lo arg hi =>
    exact Or.inl ⟨_, rfl, fun s => congrArg (commandStep · s) (funext fun u => (dispatch_illegal (by simp; try decide) u).symm)⟩
  | illegal9 lo arg hi =>
    exact Or.inl ⟨_, rfl, fun s => congrArg (commandStep · s) (funext fun u => (dispatch_illegal (by simp; try decide) u).symm)⟩
  | illegalA lo arg hi =>
    exact Or.inl ⟨_, rfl, fun s => congrArg (commandStep · s) (funext fun u => (dispatch_illegal (by simp; try decide) u).symm)⟩
  | illegalB lo arg hi =>
    exact Or.inl ⟨_, rfl, fun s => congrArg (commandStep · s) (funext fun u => (dispatch_illegal (by simp; try decide) u).symm)⟩
  | illegalC lo arg hi =>
    exact Or.inl ⟨_, rfl, fun s => congrArg (commandStep · s) (funext fun u => (dispatch_illegal (by simp; try decide) u).symm)⟩
  | illegalD lo arg hi =>
    exact Or.inl ⟨_, rfl, fun s => congrArg (commandStep · s) (funext fun u => (dispatch_illegal (by simp; try decide) u).symm)⟩
  | illegalE lo arg hi =>
    exact Or.inl ⟨_, rfl, fun s => congrArg (commandStep · s) (funext fun u => (dispatch_illegal (by simp; try decide) u).symm)⟩
  | illegalF lo arg hi =>
    exact Or.inl ⟨_, rfl, fun s => congrArg (commandStep · s) (funext fun u => (dispatch_illegal (by simp; try decide) u).symm)⟩

/-- A reset step does the same under every instruction (R224, R250). -/
theorem exec_reset (i : Instr) {s : State} (h : s.input.rst = true) : exec i s = .next (resetStep s) := by
  rcases exec_kind i with ⟨w, hi, e⟩ | ⟨a, wd, hi, e⟩ | ⟨w, hi, e⟩ | ⟨a, w, ha, hi, e⟩ | ⟨we, a, wd, hi, e⟩ | ⟨c, hi, e⟩ <;>
    rw [e] <;> exact inStep_next.2 (Or.inl ⟨h, rfl⟩)

/-- A write of CMD is the command its word holds (R201, R204). -/
theorem exec_hostWr_cmd (w : Word) (s : State) : exec (.hostWr Config.cmdIndex w) s = commandStep (dispatch w) s := by
  simp [exec, execHostWr]

theorem exec_hostWr_of_ne {a : Index} (h : a ≠ Config.cmdIndex) (w : Word) (s : State) :
    exec (.hostWr a w) s = writeStep a w s := by
  simp [exec, execHostWr, h]

/-- The shapes of a next state, by the kind of step: reset; a dispatched command; the sequencer's action followed by
OVR, by the read data or by `HostWrite`; or the sequencer's action alone, on the channel or on a presented byte. -/
theorem exec_next {i : Instr} {s t : State} (h : exec i s = .next t) :
    (s.input.rst = true ∧ t = resetStep s) ∨
    (s.input.rst = false ∧
      ((s.phase = .idle ∧ ∃ w, (encode i = .cmd w ∨ i = .hostWr Config.cmdIndex w) ∧
          t = dispatch w (beginStep s)) ∨
        (∃ u, phaseStep s.input (beginStep s) = .ok u ∧
          ((s.phase ≠ .idle ∧ (∃ w, encode i = .cmd w ∨ i = .hostWr Config.cmdIndex w) ∧ t = setOvr u) ∨
            (∃ a wd v, i = .hostRd a wd ∧ hostRead (beginStep s) a = .ok v ∧ t = { u with regRdata := v }) ∨
            (∃ a w, a ≠ Config.cmdIndex ∧ i = .hostWr a w ∧ t = hostWrite s.encBusy a w u) ∨
            (∃ we a wd, i = .skip we a wd ∧ t = u))) ∨
        (∃ c, encode i = .wireType c ∧
          phaseStep s.input (present c (beginStep s)) = .ok t))) := by
  rcases exec_kind i with ⟨w, hi, e⟩ | ⟨a, wd, hi, e⟩ | ⟨w, hi, e⟩ | ⟨a, w, ha, hi, e⟩ | ⟨we, a, wd, hi, e⟩ | ⟨c, hi, e⟩ <;>
    rw [e] at h
  · rcases commandStep_next.1 h with h | ⟨hr, hp, rfl⟩ | ⟨hr, hp, u, hu, rfl⟩
    · exact Or.inl h
    · exact Or.inr ⟨hr, Or.inl ⟨hp, w, Or.inl hi, rfl⟩⟩
    · exact Or.inr ⟨hr, Or.inr (Or.inl ⟨u, hu, Or.inl ⟨hp, ⟨w, Or.inl hi⟩, rfl⟩⟩)⟩
  · rcases readStep_next.1 h with h | ⟨hr, v, u, hv, hu, rfl⟩
    · exact Or.inl h
    · exact Or.inr ⟨hr, Or.inr (Or.inl ⟨u, hu, Or.inr (Or.inl ⟨a, wd, v, hi, hv, rfl⟩)⟩)⟩
  · rcases commandStep_next.1 h with h | ⟨hr, hp, rfl⟩ | ⟨hr, hp, u, hu, rfl⟩
    · exact Or.inl h
    · exact Or.inr ⟨hr, Or.inl ⟨hp, w, Or.inr hi, rfl⟩⟩
    · exact Or.inr ⟨hr, Or.inr (Or.inl ⟨u, hu, Or.inl ⟨hp, ⟨w, Or.inr hi⟩, rfl⟩⟩)⟩
  · rcases writeStep_next.1 h with h | ⟨hr, u, hu, rfl⟩
    · exact Or.inl h
    · exact Or.inr ⟨hr, Or.inr (Or.inl ⟨u, hu, Or.inr (Or.inr (Or.inl ⟨a, w, ha, hi, rfl⟩))⟩)⟩
  · rcases skipStep_next.1 h with h | ⟨hr, hu⟩
    · exact Or.inl h
    · exact Or.inr ⟨hr, Or.inr (Or.inl ⟨t, hu, Or.inr (Or.inr (Or.inr ⟨we, a, wd, hi, rfl⟩))⟩)⟩
  · rcases inStep_next.1 h with h | ⟨hr, hu⟩
    · exact Or.inl h
    · exact Or.inr ⟨hr, Or.inr (Or.inr ⟨c, hi, hu⟩)⟩

end Sys2Proof.Machine
end

