-- ==== Sys2Proof/Laws/Fields.lean ====
section
/-!
SUPPORT. The bytes of a value in which one wire byte was placed.
-/
namespace Sys2Proof.Machine

/-- Byte k of a value after b was placed as its wire byte j: b at that byte's place, else the byte that was there
(R83). -/
theorem byte_placeByte {n : Nat} (o : ByteOrder) (W j : Nat) (b : Byte) (v : BitVec n) (k : Nat)
    (hp : 8 * bytePos o W j + 8 ≤ n) (hk : 8 * k + 8 ≤ n) :
    (placeByte o W j b v).extractLsb' (8 * k) 8 =
      if j < W ∧ k = bytePos o W j then b else v.extractLsb' (8 * k) 8 := by
  unfold placeByte
  by_cases hj : j < W
  · simp only [hj, if_true, true_and]
    generalize bytePos o W j = p at *
    have hff : ∀ i (h : i < n), (0xFF#n)[i] = decide (i < 8) := by
      intro i h
      rw [← BitVec.getLsbD_eq_getElem, BitVec.getLsbD_ofNat, show (255 : Nat) = 2 ^ 8 - 1 from rfl, Nat.testBit_two_pow_sub_one]
      simp [h]
    by_cases hkp : k = p
    · subst hkp
      ext i hi
      simp [hff, show 8 * k + i < n by omega, show ¬ (8 * k + i < 8 * k) by omega, hi]
    · ext i hi
      by_cases hlt : k < p
      · simp [hkp, show 8 * k + i < n by omega, show 8 * k + i < 8 * p by omega]
      · have hge : 8 ≤ 8 * k + i - 8 * p := by omega
        simp [hkp, hff, show 8 * k + i < n by omega, show ¬ (8 * k + i < 8 * p) by omega, hge]
  · simp [hj]

end Sys2Proof.Machine
end

