-- ==== Sys2Proof/Laws/HostProgram.lean ====
section
/-!
SUPPORT. What a host program's step can do: each is one step of the block under one transaction, and the host goes on at
its next position or, in a pause, stays where it is.
-/
namespace Sys2Proof.Machine

@[simp] theorem HostRun.after_prog (r : HostRun) (dest : Option Nat) (pc : Nat) (t : State) :
    (r.after dest pc t).prog = r.prog := rfl

@[simp] theorem HostRun.after_pc (r : HostRun) (dest : Option Nat) (pc : Nat) (t : State) :
    (r.after dest pc t).pc = pc := rfl

@[simp] theorem HostRun.after_locals_none (r : HostRun) (pc : Nat) (t : State) :
    (r.after none pc t).locals = r.locals := rfl

@[simp] theorem HostRun.after_locals_some (r : HostRun) (n pc : Nat) (t : State) :
    (r.after (some n) pc t).locals = (n, t.regRdata) :: r.locals := rfl

@[simp] theorem HostRun.after_pauses (r : HostRun) (dest : Option Nat) (pc : Nat) (t : State) :
    (r.after dest pc t).pauses = r.pauses.tail := rfl

@[simp] theorem HostRun.after_block (r : HostRun) (dest : Option Nat) (pc : Nat) (t : State) :
    (r.after dest pc t).block = t := rfl

/-- A local variable just written holds the value read. -/
@[simp] theorem localValue_written (locals : List (Nat × Word)) (n : Nat) (v : Word) :
    localValue ((n, v) :: locals) n = v := by
  simp [localValue, List.lookup]

/-- A host's step under the transaction w goes on exactly when the block's does. -/
theorem HostRun.transact_next {r r' : HostRun} {w : PortWord} {dest : Option Nat} {pc : Nat} :
    r.transact w dest pc = .next r' ↔
      ∃ t, Machine.step (drivePort w r.block) = .next t ∧ r' = r.after dest pc t := by
  unfold HostRun.transact
  cases Machine.step (drivePort w r.block) <;> simp [eq_comm]

/-- A host's step: the program has ended, or the host makes no access and its program stays where it is, because it
spins or lets the step pass, or it makes its next transaction. -/
theorem HostRun.step_cases (r : HostRun) :
    (r.move = .halted ∧ r.step = none) ∨
    ((r.move = .spins ∨ (r.move ≠ .halted ∧ r.pausing = true)) ∧ r.step = some r.pause) ∨
    ∃ w dest pc, r.move = .access w dest pc ∧ r.pausing = false ∧ r.step = some (r.transact w dest pc) := by
  unfold HostRun.step
  cases hm : r.move with
  | halted => exact .inl ⟨rfl, rfl⟩
  | spins => exact .inr (.inl ⟨.inl rfl, rfl⟩)
  | access w dest pc =>
    cases hp : r.pausing with
    | false => exact .inr (.inr ⟨w, dest, pc, rfl, rfl, by simp⟩)
    | true => exact .inr (.inl ⟨.inr ⟨nofun, rfl⟩, by simp⟩)

/-- A host that has not ended and lets the step pass makes no access. -/
theorem HostRun.step_of_pausing {r : HostRun} (hm : r.move ≠ .halted) (hp : r.pausing = true) :
    r.step = some r.pause := by
  rcases r.step_cases with ⟨h, -⟩ | ⟨-, h⟩ | ⟨w, dest, pc, -, h, -⟩
  · exact absurd h hm
  · exact h
  · rw [hp] at h; cases h

/-- The first of n + 1 steps, when it goes on. -/
theorem HostRun.steps_succ {r r' : HostRun} (n : Nat) (h : r.step = some (.next r')) :
    HostRun.steps (n + 1) r = HostRun.steps n r' := by
  rw [HostRun.steps, h]

end Sys2Proof.Machine
end

