-- ==== Sys2Proof/Laws/PerInstr.lean ====
section
/-!
SUPPORT. The per-instruction family MatchesTable: the encoder's word of every instruction is one of its row in
spec/opcode_table.json, by the row's format, mask and match.
-/
namespace Sys2Proof.Laws

/-- A row of the opcode table: the words of its format whose bits under the mask are the match. -/
inductive TableRow where
  | cmd (fixed mask : Word)
  | port46 (fixed mask : PortWord)
  | wireType (fixed mask : Byte)
  deriving DecidableEq, Repr

/-- The row of each instruction, as the opcode table has it. -/
def tableRow : Instr → TableRow
  | .nop _ _ _ => .cmd 0x00000000#32 0x0000000F#32
  | .decode _ _ _ => .cmd 0x00000001#32 0x0000000F#32
  | .encode _ _ _ => .cmd 0x00000002#32 0x0000000F#32
  | .csumClear _ _ _ => .cmd 0x00000003#32 0x0000000F#32
  | .csumAcc _ _ _ => .cmd 0x00000004#32 0x0000000F#32
  | .illegal5 _ _ _ => .cmd 0x00000005#32 0x0000000F#32
  | .illegal6 _ _ _ => .cmd 0x00000006#32 0x0000000F#32
  | .illegal7 _ _ _ => .cmd 0x00000007#32 0x0000000F#32
  | .illegal8 _ _ _ => .cmd 0x00000008#32 0x0000000F#32
  | .illegal9 _ _ _ => .cmd 0x00000009#32 0x0000000F#32
  | .illegalA _ _ _ => .cmd 0x0000000A#32 0x0000000F#32
  | .illegalB _ _ _ => .cmd 0x0000000B#32 0x0000000F#32
  | .illegalC _ _ _ => .cmd 0x0000000C#32 0x0000000F#32
  | .illegalD _ _ _ => .cmd 0x0000000D#32 0x0000000F#32
  | .illegalE _ _ _ => .cmd 0x0000000E#32 0x0000000F#32
  | .illegalF _ _ _ => .cmd 0x0000000F#32 0x0000000F#32
  | .hostRd _ _ => .port46 0x200000000000#46 0x300000000000#46
  | .hostWr _ _ => .port46 0x300000000000#46 0x300000000000#46
  | .skip _ _ _ => .port46 0x000000000000#46 0x200000000000#46
  | .typeDiscover => .wireType 0x00#8 0xFF#8
  | .typeAlive => .wireType 0x01#8 0xFF#8
  | .typeAck => .wireType 0x02#8 0xFF#8
  | .typeData => .wireType 0x03#8 0xFF#8
  | .typeFin => .wireType 0x04#8 0xFF#8

/-- An encoded word is one of a row. -/
def TableRow.has : TableRow → Encoded → Prop
  | .cmd fixed mask, .cmd w => w &&& mask = fixed
  | .port46 fixed mask, .port w => w &&& mask = fixed
  | .wireType fixed mask, .wireType b => b &&& mask = fixed
  | _, _ => False

/-- The encoder's word of an instruction is one of its row in the opcode table (R85, R91, R210). -/
def MatchesTable.Statement (i : Instr) : Prop := (tableRow i).has (encode i)

/-- The bits of a command word under the table's mask are its OP. -/
theorem cmdWord_and_mask (op lo : BitVec 4) (arg : Byte) (hi : BitVec 16) :
    cmdWord op lo arg hi &&& 0x0000000F#32 = op.setWidth 32 := by
  apply BitVec.eq_of_toNat_eq
  rw [BitVec.toNat_and, cmdWord_toNat, show (0x0000000F#32).toNat = 2 ^ 4 - 1 from rfl, Nat.and_two_pow_sub_one_eq_mod,
    BitVec.toNat_setWidth]
  omega

theorem append_and_append {m n : Nat} (a c : BitVec m) (b d : BitVec n) :
    (a ++ b) &&& (c ++ d) = (a &&& c) ++ (b &&& d) := by
  ext i hi
  simp only [BitVec.getElem_and, BitVec.getElem_append]
  split <;> rfl

/-- The bits of a transaction under the masks of the table are reg_sel and reg_we, or reg_sel alone. -/
theorem portWord_and_top (sel we : BitVec 1) (addr : Index) (data : Word) :
    portWord sel we addr data &&& 0x300000000000#46 = portWord sel we 0#12 0#32 := by
  rw [show 0x300000000000#46 = portWord 1#1 1#1 0#12 0#32 from rfl]
  unfold portWord
  rw [append_and_append, append_and_append, append_and_append]
  simp only [BitVec.and_zero]
  rw [show sel &&& 1#1 = sel from BitVec.and_allOnes]
  rw [show we &&& 1#1 = we from BitVec.and_allOnes]

theorem portWord_and_sel (sel we : BitVec 1) (addr : Index) (data : Word) :
    portWord sel we addr data &&& 0x200000000000#46 = portWord sel 0#1 0#12 0#32 := by
  rw [show 0x200000000000#46 = portWord 1#1 0#1 0#12 0#32 from rfl]
  unfold portWord
  rw [append_and_append, append_and_append, append_and_append]
  simp only [BitVec.and_zero]
  rw [show sel &&& 1#1 = sel from BitVec.and_allOnes]

theorem MatchesTable.nop (lo : BitVec 4) (arg : Byte) (hi : BitVec 16) :
    MatchesTable.Statement (.nop lo arg hi) := cmdWord_and_mask _ lo arg hi

theorem MatchesTable.decode (lo : BitVec 4) (arg : Byte) (hi : BitVec 16) :
    MatchesTable.Statement (.decode lo arg hi) := cmdWord_and_mask _ lo arg hi

theorem MatchesTable.encode (lo : BitVec 4) (arg : Byte) (hi : BitVec 16) :
    MatchesTable.Statement (.encode lo arg hi) := cmdWord_and_mask _ lo arg hi

theorem MatchesTable.csumClear (lo : BitVec 4) (arg : Byte) (hi : BitVec 16) :
    MatchesTable.Statement (.csumClear lo arg hi) := cmdWord_and_mask _ lo arg hi

theorem MatchesTable.csumAcc (lo : BitVec 4) (arg : Byte) (hi : BitVec 16) :
    MatchesTable.Statement (.csumAcc lo arg hi) := cmdWord_and_mask _ lo arg hi

theorem MatchesTable.illegal5 (lo : BitVec 4) (arg : Byte) (hi : BitVec 16) :
    MatchesTable.Statement (.illegal5 lo arg hi) := cmdWord_and_mask _ lo arg hi

theorem MatchesTable.illegal6 (lo : BitVec 4) (arg : Byte) (hi : BitVec 16) :
    MatchesTable.Statement (.illegal6 lo arg hi) := cmdWord_and_mask _ lo arg hi

theorem MatchesTable.illegal7 (lo : BitVec 4) (arg : Byte) (hi : BitVec 16) :
    MatchesTable.Statement (.illegal7 lo arg hi) := cmdWord_and_mask _ lo arg hi

theorem MatchesTable.illegal8 (lo : BitVec 4) (arg : Byte) (hi : BitVec 16) :
    MatchesTable.Statement (.illegal8 lo arg hi) := cmdWord_and_mask _ lo arg hi

theorem MatchesTable.illegal9 (lo : BitVec 4) (arg : Byte) (hi : BitVec 16) :
    MatchesTable.Statement (.illegal9 lo arg hi) := cmdWord_and_mask _ lo arg hi

theorem MatchesTable.illegalA (lo : BitVec 4) (arg : Byte) (hi : BitVec 16) :
    MatchesTable.Statement (.illegalA lo arg hi) := cmdWord_and_mask _ lo arg hi

theorem MatchesTable.illegalB (lo : BitVec 4) (arg : Byte) (hi : BitVec 16) :
    MatchesTable.Statement (.illegalB lo arg hi) := cmdWord_and_mask _ lo arg hi

theorem MatchesTable.illegalC (lo : BitVec 4) (arg : Byte) (hi : BitVec 16) :
    MatchesTable.Statement (.illegalC lo arg hi) := cmdWord_and_mask _ lo arg hi

theorem MatchesTable.illegalD (lo : BitVec 4) (arg : Byte) (hi : BitVec 16) :
    MatchesTable.Statement (.illegalD lo arg hi) := cmdWord_and_mask _ lo arg hi

theorem MatchesTable.illegalE (lo : BitVec 4) (arg : Byte) (hi : BitVec 16) :
    MatchesTable.Statement (.illegalE lo arg hi) := cmdWord_and_mask _ lo arg hi

theorem MatchesTable.illegalF (lo : BitVec 4) (arg : Byte) (hi : BitVec 16) :
    MatchesTable.Statement (.illegalF lo arg hi) := cmdWord_and_mask _ lo arg hi

theorem MatchesTable.hostRd (a : Index) (wd : Word) : MatchesTable.Statement (.hostRd a wd) := by
  exact (portWord_and_top 1#1 0#1 a wd)

theorem MatchesTable.hostWr (a : Index) (wd : Word) : MatchesTable.Statement (.hostWr a wd) := by
  exact (portWord_and_top 1#1 1#1 a wd)

theorem MatchesTable.skip (we : BitVec 1) (a : Index) (wd : Word) : MatchesTable.Statement (.skip we a wd) := by
  exact (portWord_and_sel 0#1 we a wd)

theorem MatchesTable.typeDiscover : MatchesTable.Statement .typeDiscover := rfl

theorem MatchesTable.typeAlive : MatchesTable.Statement .typeAlive := rfl

theorem MatchesTable.typeAck : MatchesTable.Statement .typeAck := rfl

theorem MatchesTable.typeData : MatchesTable.Statement .typeData := rfl

theorem MatchesTable.typeFin : MatchesTable.Statement .typeFin := rfl

end Sys2Proof.Laws
end

