-- ==== Sys2Proof/Laws/Step.lean ====
section
/-!
SUPPORT. What a step of the machine does, said once: the instruction the step finds on its ports, and the shapes of its
next state.
-/
namespace Sys2Proof.Machine

/-! ### Decoding -/

/-- A command word decodes to a command, which encodes back to the word (R90, R91). -/
theorem encode_decodeCmd (w : Word) : encode (decodeCmd w) = .cmd w := by
  have h := cmdWord_fields w
  have hlt : (cmdOp w).toNat < 16 := (cmdOp w).isLt
  obtain ⟨n, hn⟩ : ∃ n, (cmdOp w).toNat = n := ⟨_, rfl⟩
  have ho : cmdOp w = BitVec.ofNat 4 n := by rw [← hn]; simp
  rw [hn] at hlt
  rw [ho] at h
  interval_cases n <;> simp only [decodeCmd, hn, encode] <;> exact congrArg _ h

/-- Only the five named TYPE bytes decode, each to the instruction that encodes to it (R85). -/
theorem encode_decodeType {b : Byte} {i : Instr} (h : decodeType b = .ok i) : encode i = .wireType b := by
  obtain ⟨n, hn⟩ : ∃ n, b.toNat = n := ⟨_, rfl⟩
  have hb : b = BitVec.ofNat 8 n := by rw [← hn]; simp
  subst hb
  simp only [decodeType, hn] at h
  split at h <;> cases h <;> rfl

/-- What a transaction decodes to, by its fields (R201, R210). -/
theorem decodePort_cases (w : PortWord) :
    (portSel w = 0#1 ∧ decodePort w = .skip (portWe w) (portAddr w) (portData w)) ∨
    (portSel w = 1#1 ∧ portWe w = 0#1 ∧ decodePort w = .hostRd (portAddr w) (portData w)) ∨
    (portSel w = 1#1 ∧ portWe w = 1#1 ∧ portAddr w = Config.cmdIndex ∧ decodePort w = decodeCmd (portData w)) ∨
    (portSel w = 1#1 ∧ portWe w = 1#1 ∧ portAddr w ≠ Config.cmdIndex ∧
      decodePort w = .hostWr (portAddr w) (portData w)) := by
  have bit : ∀ b : BitVec 1, b ≠ 0#1 → b = 1#1 := by decide
  unfold decodePort
  by_cases h1 : portSel w = 0#1
  · simp [h1]
  · by_cases h2 : portWe w = 0#1
    · simp [h2, bit _ h1]
    · by_cases h3 : portAddr w = Config.cmdIndex <;> simp [h3, bit _ h1, bit _ h2]

/-! ### The instruction of a step -/

/-- The instruction of a step: that of the transaction, or in a step without an access the named TYPE byte it takes at
header position 2, or SKIP. -/
theorem fetch_cases (s : State) :
    (portSel s.input.port = 1#1 ∧ fetch s = decodePort s.input.port) ∨
    (portSel s.input.port = 0#1 ∧ fetch s = decodePort s.input.port ∧
      ∀ b i, typeTaken s = some b → decodeType b ≠ .ok i) ∨
    (portSel s.input.port = 0#1 ∧ ∃ b, typeTaken s = some b ∧ decodeType b = .ok (fetch s)) := by
  unfold fetch
  rcases decodePort_cases s.input.port with ⟨h, e⟩ | ⟨h, -, e⟩ | ⟨h, -, -, e⟩ | ⟨h, -, -, e⟩
  · right
    rw [e]
    cases ht : typeTaken s with
    | none => exact Or.inl ⟨h, by simp, by simp⟩
    | some b =>
      cases hd : decodeType b with
      | error f =>
        refine Or.inl ⟨h, by simp [hd], fun b' i hb => ?_⟩
        cases hb
        simp [hd]
      | ok i => exact Or.inr ⟨h, b, rfl, by simp [hd]⟩
  · exact Or.inl ⟨h, by rw [e]⟩
  · refine Or.inl ⟨h, ?_⟩
    rw [e]
    cases hc : decodeCmd (portData s.input.port) with
    | skip we a wd =>
      have := encode_decodeCmd (portData s.input.port)
      rw [hc] at this
      cases this
    | _ => rfl
  · exact Or.inl ⟨h, by rw [e]⟩

/-- The TYPE byte a step takes heads the channel's queue, in a HDR step at position 2 before the deadline (R151). -/
theorem typeTaken_some {s : State} {b : Byte} (h : typeTaken s = some b) :
    s.phase = .hdr ∧ s.hidx = 2#4 ∧ s.input.expired = false ∧ s.input.rst = false ∧ s.arrived.head? = some b := by
  unfold typeTaken at h
  split at h
  · rename_i hc
    simp only [Bool.and_eq_true, decide_eq_true_eq, Bool.not_eq_true'] at hc
    exact ⟨hc.1.1.1, hc.1.1.2, hc.1.2, hc.2, h⟩
  · cases h

/-- To present the byte that heads the channel changes nothing. -/
theorem present_head {s : State} {c : Byte} (h : s.chan.head? = some c) : present c s = s := by
  obtain ⟨rest, hr⟩ : ∃ rest, s.chan = c :: rest := by
    cases hc : s.chan with
    | nil => simp [hc] at h
    | cons a rest =>
      rw [hc] at h
      cases h
      exact ⟨rest, rfl⟩
  have : c :: s.chan.drop 1 = s.chan := by rw [hr]; rfl
  unfold present
  rw [this]

/-- A step that takes a named TYPE byte is the step without an access (R85). -/
theorem exec_of_typeTaken {s : State} {b : Byte} {i : Instr} (h : typeTaken s = some b)
    (hi : decodeType b = .ok i) : exec i s = skipStep s := by
  have hp : present b (beginStep s) = beginStep s := present_head (typeTaken_some h).2.2.2.2
  have he := encode_decodeType hi
  rcases exec_kind i with ⟨w, e, -⟩ | ⟨a, wd, rfl, -⟩ | ⟨w, rfl, -⟩ | ⟨a, w, -, rfl, -⟩ | ⟨we, a, wd, rfl, -⟩ |
    ⟨c, e, hx⟩
  · rw [e] at he
    cases he
  · cases he
  · cases he
  · cases he
  · cases he
  · rw [e] at he
    cases he
    rw [hx]
    unfold presentStep skipStep inStep
    dsimp only
    rw [hp]

/-- The shapes of a step's next state: reset; a dispatched command; the sequencer's action followed by OVR, by the read
data or by `HostWrite`; or the sequencer's action alone. -/
theorem step_next {s t : State} (h : step s = .next t) :
    (s.input.rst = true ∧ t = resetStep s) ∨
    (s.input.rst = false ∧
      ((s.phase = .idle ∧ ∃ w, decodePort s.input.port = decodeCmd w ∧ t = dispatch w (beginStep s)) ∨
        (∃ u, phaseStep s.input (beginStep s) = .ok u ∧
          ((s.phase ≠ .idle ∧ t = setOvr u) ∨
            (∃ a v, hostRead (beginStep s) a = .ok v ∧ t = { u with regRdata := v }) ∨
            (∃ a w, a ≠ Config.cmdIndex ∧ t = hostWrite s.encBusy a w u) ∨ t = u)))) := by
  have h' : exec (decodePort s.input.port) s = .next t ∨ skipStep s = .next t := by
    unfold step at h
    rcases fetch_cases s with ⟨-, e⟩ | ⟨-, e, -⟩ | ⟨-, b, hb, hd⟩
    · exact Or.inl (e ▸ h)
    · exact Or.inl (e ▸ h)
    · exact Or.inr ((exec_of_typeTaken hb hd).symm.trans h)
  have skip : skipStep s = .next t → _ := skipStep_next.1
  rcases h' with h | h
  · rcases decodePort_cases s.input.port with ⟨-, e⟩ | ⟨-, -, e⟩ | ⟨-, -, -, e⟩ | ⟨-, -, ha, e⟩
    · rw [e] at h
      rcases skip h with h | ⟨hr, hu⟩
      · exact Or.inl h
      · exact Or.inr ⟨hr, Or.inr ⟨t, hu, Or.inr (Or.inr (Or.inr rfl))⟩⟩
    · rw [e] at h
      rcases readStep_next.1 h with h | ⟨hr, v, u, hv, hu, rfl⟩
      · exact Or.inl h
      · exact Or.inr ⟨hr, Or.inr ⟨u, hu, Or.inr (Or.inl ⟨_, v, hv, rfl⟩)⟩⟩
    · rw [e, exec_decodeCmd] at h
      rcases commandStep_next.1 h with h | ⟨hr, hp, rfl⟩ | ⟨hr, hp, u, hu, rfl⟩
      · exact Or.inl h
      · exact Or.inr ⟨hr, Or.inl ⟨hp, _, e, rfl⟩⟩
      · exact Or.inr ⟨hr, Or.inr ⟨u, hu, Or.inl ⟨hp, rfl⟩⟩⟩
    · rw [e, exec_hostWr_of_ne ha] at h
      rcases writeStep_next.1 h with h | ⟨hr, u, hu, rfl⟩
      · exact Or.inl h
      · exact Or.inr ⟨hr, Or.inr ⟨u, hu, Or.inr (Or.inr (Or.inl ⟨_, _, ha, rfl⟩))⟩⟩
  · rcases skip h with h | ⟨hr, hu⟩
    · exact Or.inl h
    · exact Or.inr ⟨hr, Or.inr ⟨t, hu, Or.inr (Or.inr (Or.inr rfl))⟩⟩

end Sys2Proof.Machine
end

