-- ==== Sys2Proof/Laws/Run.lean ====
section
/-!
SUPPORT. Runs of several steps, and the step in which the host makes no access.
-/
namespace Sys2Proof.Machine

theorem core_run_succ {s t : Sys2Proof.core.State} (n : Nat) (h : Sys2Proof.core.step s = .next t) :
    Host.Core.run Sys2Proof.core (n + 1) s = Host.Core.run Sys2Proof.core n t := by
  conv_lhs => unfold Host.Core.run
  rw [h]

/-- A run begins with its first step. -/
theorem run_succ {s t : State} (n : Nat) (h : step s = .next t) :
    Host.Core.run Sys2Proof.core (n + 1) s = Host.Core.run Sys2Proof.core n t := core_run_succ n h

theorem core_run_add {s t : Sys2Proof.core.State} (m n : Nat) (h : Host.Core.run Sys2Proof.core m s = .next t) :
    Host.Core.run Sys2Proof.core (m + n) s = Host.Core.run Sys2Proof.core n t := by
  induction m generalizing s with
  | zero =>
    unfold Host.Core.run at h
    cases h
    simp
  | succ m ih =>
    unfold Host.Core.run at h
    cases hs : Sys2Proof.core.step s with
    | next u =>
      rw [hs] at h
      rw [show m + 1 + n = (m + n) + 1 by omega, core_run_succ _ hs]
      exact ih h
    | fault f =>
      rw [hs] at h
      cases h
    | refused f =>
      rw [hs] at h
      cases h

/-- A run of m + n steps is a run of m steps and then one of n. -/
theorem run_add {s t : State} (m n : Nat) (h : Host.Core.run Sys2Proof.core m s = .next t) :
    Host.Core.run Sys2Proof.core (m + n) s = Host.Core.run Sys2Proof.core n t := core_run_add m n h

/-- A step without an access is the sequencer's alone, whether or not it takes a named TYPE byte. -/
theorem step_of_noAccess {s : State} (h : portSel s.input.port = 0#1) : step s = skipStep s := by
  unfold step
  rcases fetch_cases s with ⟨h1, -⟩ | ⟨-, e, -⟩ | ⟨-, b, hb, hd⟩
  · rw [h] at h1
    cases h1
  · rw [e]
    rcases decodePort_cases s.input.port with ⟨-, e⟩ | ⟨h1, -⟩ | ⟨h1, -⟩ | ⟨h1, -⟩
    · rw [e]
      rfl
    all_goals
      rw [h] at h1
      cases h1
  · exact exec_of_typeTaken hb hd

end Sys2Proof.Machine
end

