-- ==== Sys2Proof/Tests/Slice0.lean ====
section
/-!
SUPPORT. Tests: ill-formed terms, words written out from the spec's encodings, one-step tests whose expected values are
the spec's own examples and vectors, and a witness for the hypotheses of every statement that has some.
-/
open Sys2Proof Sys2Proof.Machine

/-! ### Small states -/

/-- What a predicate says of an instruction's next state; false if there is none. -/
def Tests.after (i : Instr) (s : State) (p : State → Bool) : Bool :=
  match exec i s with
  | .next t => p t
  | _ => false

/-- An idle block with TXBUF[0..2] = 01 02 03 and the TX registers of V-ENC-1. -/
def Tests.loaded : State :=
  { State.reset with txMeta := 0x00#8, txType := 0x03#8, txLen := 3#32, mem := [(0, 0x01#8), (1, 0x02#8), (2, 0x03#8)] }

/-- A block in SYNC whose channel holds the given bytes. -/
def Tests.syncing (bytes : List Byte) : State := { State.reset with phase := .sync, chan := bytes }

/-- A block in HDR at the given position whose channel holds the given bytes. -/
def Tests.header (h : Nat) (bytes : List Byte) : State :=
  { State.reset with phase := .hdr, hidx := BitVec.ofNat 4 h, chan := bytes }

/-- A block in BODY that received 01 of 01 02 03 and has the given bytes in its channel (V-DEC-1 at step 15). -/
def Tests.receiving (bytes : List Byte) : State :=
  { State.reset with
    phase := .body, cnt := 1#9, rxlen := 3#64, rxCsum := 9#32, acc := 1#32, pos := 1#2, mem := [(0x100, 0x01#8)]
    chan := bytes }

/-- A block in CALC over 01 02 03 with the given counter. -/
def Tests.computing (c : Nat) : State := { Tests.loaded with phase := .calc, cnt := BitVec.ofNat 9 c }

/-- A block in EMIT over 01 02 03 with the given counter. -/
def Tests.sending (e : Nat) : State :=
  { Tests.loaded with phase := .emit, cnt := 3#9, eidx := BitVec.ofNat 9 e, acc := 9#32, pos := 3#2 }

/-- The state with the given inputs for its next step. -/
def Tests.withInput (i : StepIn) (s : State) : State := { s with inputs := [i] }

/-! ### Well-formed terms -/

theorem test_wf_write_of_cmd_refused : (Instr.hostWr 0x200#12 0x00000002#32).wellFormed = false := by decide

theorem test_wf_neighbours : (Instr.hostWr 0x1FF#12 0#32).wellFormed = true ∧
    (Instr.hostWr 0x201#12 0#32).wellFormed = true ∧ (Instr.hostRd 0x200#12 0#32).wellFormed = true := by decide

/-! ### Words written out from the encodings (R85, R90, R91, R210) -/

theorem test_decode_words_commands :
    decodeCmd 0x00000000#32 = .nop 0x0#4 0x00#8 0x0000#16 ∧ decodeCmd 0xFFFF00F0#32 = .nop 0xF#4 0x00#8 0xFFFF#16 ∧
    decodeCmd 0x00000001#32 = .decode 0x0#4 0x00#8 0x0000#16 ∧ decodeCmd 0x00000002#32 = .encode 0x0#4 0x00#8 0x0000#16 ∧
    decodeCmd 0x12345653#32 = .csumClear 0x5#4 0x56#8 0x1234#16 ∧
    decodeCmd 0x0000FF04#32 = .csumAcc 0x0#4 0xFF#8 0x0000#16 := by decide

theorem test_decode_words_illegal :
    decodeCmd 0x00000005#32 = .illegal5 0#4 0#8 0#16 ∧ decodeCmd 0x00000006#32 = .illegal6 0#4 0#8 0#16 ∧
    decodeCmd 0x00000007#32 = .illegal7 0#4 0#8 0#16 ∧ decodeCmd 0x00000008#32 = .illegal8 0#4 0#8 0#16 ∧
    decodeCmd 0x00000009#32 = .illegal9 0#4 0#8 0#16 ∧ decodeCmd 0x0000000A#32 = .illegalA 0#4 0#8 0#16 ∧
    decodeCmd 0x0000000B#32 = .illegalB 0#4 0#8 0#16 ∧ decodeCmd 0x0000000C#32 = .illegalC 0#4 0#8 0#16 ∧
    decodeCmd 0x0000000D#32 = .illegalD 0#4 0#8 0#16 ∧ decodeCmd 0x0000000E#32 = .illegalE 0#4 0#8 0#16 ∧
    decodeCmd 0xABCD12FF#32 = .illegalF 0xF#4 0x12#8 0xABCD#16 := by decide

/-- R210: `WR CMD, 2` is 0x3_200_00000002 and `RD STATUS` is 0x2_201_00000000. -/
theorem test_decode_words_port :
    decodePort 0x320000000002#46 = .encode 0#4 0#8 0#16 ∧ decodePort 0x220100000000#46 = .hostRd 0x201#12 0#32 ∧
    decodePort 0x320700000100#46 = .hostWr 0x207#12 0x100#32 ∧ decodePort 0x120700000100#46 = .skip 1#1 0x207#12 0x100#32 ∧
    decodePort 0x000000000000#46 = .skip 0#1 0x000#12 0#32 := by decide

theorem test_decode_words_type :
    decodeType 0x00#8 = .ok .typeDiscover ∧ decodeType 0x01#8 = .ok .typeAlive ∧ decodeType 0x02#8 = .ok .typeAck ∧
    decodeType 0x03#8 = .ok .typeData ∧ decodeType 0x04#8 = .ok .typeFin ∧
    decodeType 0x05#8 = .error (.unnamedType 0x05#8) ∧ decodeType 0xFF#8 = .error (.unnamedType 0xFF#8) := by decide

theorem test_table_words :
    decodeTableWord 32 0x00000104 = some (.csumAcc 0#4 0x01#8 0#16) ∧
    decodeTableWord 48 0x320700000100 = some (.hostWr 0x207#12 0x100#32) ∧ decodeTableWord 8 0x03 = some .typeData := by
  decide

theorem test_encode_words :
    encode (.csumAcc 0#4 0x03#8 0#16) = .cmd 0x00000304#32 ∧ encode (.hostRd 0x201#12 0#32) = .port 0x220100000000#46 ∧
    encode .typeAck = .wireType 0x02#8 := by decide

theorem test_fetch_word_runs :
    fetch (State.reset.withFetchWord 32 0x00000304) = .csumAcc 0#4 0x03#8 0#16 ∧
    fetch (State.reset.withFetchWord 48 0x220100000000) = .hostRd 0x201#12 0#32 ∧
    fetch (State.reset.withFetchWord 8 0x02) = .typeAck := by decide

/-! ### Registers and functions -/

theorem test_index_map :
    regAt 0x000#12 = .txbuf 0#8 ∧ regAt 0x0FF#12 = .txbuf 0xFF#8 ∧ regAt 0x100#12 = .rxbuf 0#8 ∧
    regAt 0x1FF#12 = .rxbuf 0xFF#8 ∧ regAt 0x200#12 = .cmd ∧ regAt 0x20D#12 = .rxCsum ∧ regAt 0x20E#12 = .reserved ∧
    regAt 0xFFF#12 = .reserved := by decide

/-- V-CS-1, 3, 4, 5, 6, 9, 16 and 17. -/
theorem test_checksum_vectors :
    csum [] = 0#32 ∧ csum [0x80#8] = 0x80#32 ∧ csum [0x01#8, 0x02#8, 0x03#8] = 0x009#32 ∧
    csum [0xFF#8, 0xFF#8, 0xFF#8, 0xFF#8] = 0x505#32 ∧ csum [0xFF#8, 0xFF#8, 0xFF#8, 0xFF#8, 0xFF#8] = 0x5FA#32 ∧
    csum [0x12#8, 0x34#8, 0x56#8, 0x78#8] = 0x2E2#32 ∧ csum [0xBA#8, 0xBA#8] = 0x1CE#32 ∧ csum [0xA5#8] = 0xA5#32 := by
  decide

theorem test_memory_write_keeps_order :
    Memory.write [(3, 0x11#8), (7, 0x22#8)] 5 0x33#8 = [(3, 0x11#8), (5, 0x33#8), (7, 0x22#8)] ∧
    Memory.write [(3, 0x11#8)] 3 0x33#8 = [(3, 0x33#8)] ∧ Memory.wf [(3, 0x11#8), (3, 0x22#8)] = false ∧
    Memory.wf [(0x200, 0x11#8)] = false ∧ State.reset.mem.wf = true := by decide

/-! ### One step each -/

/-- R205: with STATUS = 0x12 a write CMD ← 0 leaves it. -/
theorem test_nop_keeps_status :
    Tests.after (.nop 0#4 0#8 0#16) { State.reset with done := true, code := .timeoutReached }
      (fun t => t.status == 0x00000012#32) = true := by decide

/-- V-CTL-8. -/
theorem test_decode_starts :
    Tests.after (.decode 0#4 0#8 0#16) { State.reset with
      acc := 9#32, pos := 3#2, winN := true, winB := 0xBA#8, done := true, code := .timeoutReached }
      (fun t => t.status == 0x00000101#32 && t.acc == 0#32 && !t.winN && t.winB == 0#8) = true := by decide

/-- V-ENC-1, the start step, after an illegal command as in program P5. -/
theorem test_encode_starts :
    Tests.after (.encode 0#4 0#8 0#16) { Tests.loaded with done := true, code := .illegalCmd }
      (fun t => t.status == 0x00000401#32) = true := by decide

/-- V-ACC-7, V-ENC-9. -/
theorem test_encode_long_length :
    Tests.after (.encode 0#4 0#8 0#16) { State.reset with txLen := 257#32, acc := 0x11#32, pos := 1#2 }
      (fun t => t.status == 0x00000032#32 && t.acc == 0x11#32 && t.pos == 1#2 && t.sent == []) = true := by decide

/-- V-ACC-3. -/
theorem test_csum_clear :
    Tests.after (.csumClear 0#4 0#8 0#16) { State.reset with acc := 0x2EC#32, pos := 1#2 }
      (fun t => t.status == 0x00000002#32 && t.acc == 0#32 && t.pos == 0#2) = true := by decide

/-- V-ACC-6. -/
theorem test_csum_acc_wraps_position :
    Tests.after (.csumAcc 0#4 0x04#8 0#16) { State.reset with acc := 9#32, pos := 3#2, rxValid := true }
      (fun t => t.status == 0x00000006#32 && t.acc == 0x29#32 && t.pos == 0#2) = true := by decide

/-- V-ACC-8: the byte 0xFF at position 0. -/
theorem test_csum_acc_high_byte :
    Tests.after (.csumAcc 0#4 0xFF#8 0#16) { State.reset with acc := 0x505#32 }
      (fun t => t.acc == 0x5FA#32 && t.pos == 1#2) = true := by decide

/-- V-CTL-5, for every illegal OP. -/
theorem test_illegal_commands :
    [Instr.illegal5 0#4 0#8 0#16, .illegal6 0#4 0#8 0#16, .illegal7 0#4 0#8 0#16, .illegal8 0#4 0#8 0#16,
      .illegal9 0#4 0#8 0#16, .illegalA 0#4 0#8 0#16, .illegalB 0#4 0#8 0#16, .illegalC 0#4 0#8 0#16,
      .illegalD 0#4 0#8 0#16, .illegalE 0#4 0#8 0#16, .illegalF 0#4 0#8 0#16].all
        (fun i => Tests.after i State.reset (fun t => t.status == 0x00000072#32)) = true := by decide

/-- V-CTL-10: a busy command is dropped with OVR set, and the DECODE takes its byte in the same step. -/
theorem test_busy_command_sets_ovr :
    Tests.after (.csumClear 0#4 0#8 0#16) (Tests.syncing [0xBA#8])
      (fun t => t.status == 0x00000109#32 && t.winN && t.chan == []) = true := by decide

/-- V-CTL-1. -/
theorem test_read_cfg :
    Tests.after (.hostRd 0x202#12 0#32) State.reset (fun t => t.regRdata == 0xBABA0104#32) = true := by decide

/-- V-RST-3. -/
theorem test_read_never_written :
    exec (.hostRd 0x000#12 0#32) State.reset = .fault (.readNeverWritten 0x000#12) := rfl

/-- V-CTL-3. -/
theorem test_write_txbuf_low_byte :
    Tests.after (.hostWr 0x005#12 0x000001FF#32) State.reset (fun t => t.mem.read 5 == some 0xFF#8) = true := by decide

/-- V-CTL-13: TX_LEN in CALC. -/
theorem test_write_txlen_while_encoding :
    Tests.after (.hostWr 0x207#12 5#32) (Tests.computing 0) (fun t => t.txLen == 3#32 && t.ovr && t.cnt == 1#9) = true := by
  decide

/-- V-SYNC-2: the marker at the second byte. -/
theorem test_skip_finds_marker :
    Tests.after (.skip 0#1 0#12 0#32) { Tests.syncing [0xBA#8, 0xBA#8, 0x01#8] with winN := true, winB := 0xBA#8 }
      (fun t => t.status == 0x00000201#32 && t.chan == [0xBA#8, 0x01#8] && t.hidx == 0#4 && !t.winN) = true := by decide

/-- V-DEC-1, its last step. -/
theorem test_skip_ends_decode :
    Tests.after (.skip 0#1 0#12 0#32) { Tests.receiving [0x03#8] with cnt := 2#9, acc := 5#32, pos := 2#2 }
      (fun t => t.status == 0x00000006#32 && t.acc == 9#32 && t.mem.read 0x102 == some 0x03#8) = true := by decide

/-- R85: each named TYPE byte is stored at header position 2. -/
theorem test_type_bytes_stored :
    [(Instr.typeDiscover, 0x00#8), (.typeAlive, 0x01#8), (.typeAck, 0x02#8), (.typeData, 0x03#8), (.typeFin, 0x04#8)].all
      (fun p => Tests.after p.1 (Tests.header 2 [p.2, 0xAA#8])
        (fun t => t.rxType == p.2 && t.hidx == 3#4 && t.chan == [0xAA#8])) = true := by decide

/-- V-DEC-21: the pulse of the deadline ends the DECODE before TYPE is read. -/
theorem test_type_byte_after_deadline :
    Tests.after .typeData (Tests.withInput { expired := true } (Tests.header 2 [0x03#8]))
      (fun t => t.status == 0x00000012#32 && t.rxType == 0#8 && t.chan == [0x03#8]) = true := by decide

/-- V-DEC-6: the length 257 at the last header byte. -/
theorem test_header_rejects_long_length :
    Tests.after (.skip 0#1 0#12 0#32) { Tests.header 10 [0x00#8, 0x09#8] with rxlen := 257#64 }
      (fun t => t.status == 0x00000032#32 && t.chan == [0x09#8]) = true := by decide

/-- V-ENC-1: the last length byte, at offset 8. -/
theorem test_emit_length_byte :
    Tests.after (.skip 0#1 0#12 0#32) (Tests.sending 8)
      (fun t => t.txValid && t.txData == 0x03#8 && t.status == 0x00000501#32) = true := by decide

/-- V-RST-1. -/
theorem test_reset_step :
    Tests.after (.hostWr 0x207#12 5#32) (Tests.withInput { rst := true } (Tests.sending 7))
      (fun t => t.status == 0#32 && t.txLen == 0#32 && t.acc == 0#32 && t.mem == []) = true := by decide

/-! ### Witnesses: states and operands that meet the hypotheses of each statement

`test_meets_<Name>` meets the hypotheses of `Obligations.<Name>`; a statement with several clauses has a witness for
each. -/

theorem test_meets_ResetStepOverridesEverything :
    (Tests.withInput { rst := true, expired := true } (Tests.sending 7)).input.rst = true := rfl

theorem test_meets_NopDoesNothing :
    (Runs State.reset ∧ State.reset.phase = .idle) ∧ (Runs (Tests.syncing []) ∧ (Tests.syncing []).phase ≠ .idle) ∧
    cmdOp 0xFFFFFFF0#32 = 0x0#4 := ⟨⟨rfl, rfl⟩, ⟨rfl, by decide⟩, by decide⟩

theorem test_meets_CsumClearZeroesAccumulator :
    (Runs { State.reset with acc := 0x7FF#32, pos := 3#2 } ∧ State.reset.phase = .idle) ∧
    (Runs (Tests.computing 0) ∧ (Tests.computing 0).phase ≠ .idle) ∧ cmdOp 0x12345603#32 = 0x3#4 :=
  ⟨⟨rfl, rfl⟩, ⟨rfl, by decide⟩, by decide⟩

theorem test_meets_CsumAccAccumulatesByte :
    (Runs { State.reset with acc := 0x7FF#32, pos := 3#2 } ∧ State.reset.phase = .idle) ∧
    (Runs (Tests.sending 0) ∧ (Tests.sending 0).phase ≠ .idle) ∧ cmdOp 0xFFFFFFF4#32 = 0x4#4 :=
  ⟨⟨rfl, rfl⟩, ⟨rfl, by decide⟩, by decide⟩

theorem test_meets_IllegalCommandsEndAtOnce :
    (Runs State.reset ∧ State.reset.phase = .idle) ∧ (Runs (Tests.header 0 []) ∧ (Tests.header 0 []).phase ≠ .idle) ∧
    Instr.illegal5 0#4 0#8 0#16 ∈ [Instr.illegal5 0#4 0#8 0#16] ∧ 0x5 ≤ (cmdOp 0x00000005#32).toNat ∧
    0x5 ≤ (cmdOp 0xFFFFFFFF#32).toNat := ⟨⟨rfl, rfl⟩, ⟨rfl, by decide⟩, by decide, by decide, by decide⟩

theorem test_meets_DecodeStartsSearch :
    Runs (Tests.withInput { arrive := [0xBA#8], expired := true } Tests.loaded) ∧ Tests.loaded.phase = .idle := ⟨rfl, rfl⟩

theorem test_meets_EncodeStartsFrame :
    (Runs { State.reset with txLen := 256#32 } ∧ State.reset.phase = .idle ∧ (256#32).toNat ≤ 256) ∧
    (0#32).toNat ≤ 256 := ⟨⟨rfl, rfl, by decide⟩, by decide⟩

theorem test_meets_EncodeRejectsLongLength :
    (Runs { State.reset with txLen := 257#32 } ∧ State.reset.phase = .idle ∧ 256 < (257#32).toNat) ∧
    256 < (0xFFFFFFFF#32).toNat := ⟨⟨rfl, rfl, by decide⟩, by decide⟩

theorem test_meets_IgnoredCommandBits :
    (cmdOp 0x00000104#32 = cmdOp 0xFFFF01F4#32 ∧
      (cmdOp 0x00000104#32 = 0x4#4 → cmdArg 0x00000104#32 = cmdArg 0xFFFF01F4#32)) ∧
    (cmdOp 0x12345603#32 = cmdOp 0x00000003#32 ∧
      (cmdOp 0x12345603#32 = 0x4#4 → cmdArg 0x12345603#32 = cmdArg 0x00000003#32)) :=
  ⟨⟨by decide, fun _ => by decide⟩, by decide, fun h => absurd h (by decide)⟩

theorem test_meets_BusyWritesOnlySetOvr_command :
    Runs (Tests.syncing [0xBA#8]) ∧ (Tests.syncing [0xBA#8]).phase ≠ .idle := ⟨rfl, by decide⟩

theorem test_meets_BusyWritesOnlySetOvr_tx :
    Runs (Tests.computing 0) ∧ (Tests.computing 0).encBusy = true ∧
    (0x000#12).toNat < 0x100 ∧ (0x0FF#12).toNat < 0x100 ∧
    [0x205#12, 0x206#12, 0x207#12].all (fun a => a = 0x205#12 ∨ a = 0x206#12 ∨ a = 0x207#12) = true :=
  ⟨rfl, rfl, by decide, by decide, by decide⟩

theorem test_meets_BusyWritesOnlySetOvr_cleared :
    { Tests.sending 0 with ovr := true }.ovr = true ∧
    ∃ t, exec (.hostWr 0x201#12 0x00000008#32) { Tests.sending 0 with ovr := true } = .next t ∧ t.ovr = false :=
  ⟨rfl, _, rfl, rfl⟩

theorem test_meets_BusyWritesOnlySetOvr_kept :
    Runs (Tests.sending 3) ∧ (Tests.sending 3).encBusy = true ∧
    ∃ t, exec (.hostWr 0x205#12 0x000000FF#32) (Tests.sending 3) = .next t := ⟨rfl, rfl, _, rfl⟩

theorem test_meets_SkipLeavesIdleBlock : Runs Tests.loaded ∧ Tests.loaded.phase = .idle := ⟨rfl, rfl⟩

theorem test_meets_ReadReturnsRegister_buffers :
    Runs { State.reset with mem := [(0x000, 0x11#8), (0x1FF, 0x22#8)] } ∧ State.reset.phase = .idle ∧
    (0x000#12).toNat < 0x200 ∧ Memory.read [(0x000, 0x11#8), (0x1FF, 0x22#8)] (0x000#12).toNat = some 0x11#8 ∧
    (0x1FF#12).toNat < 0x200 ∧ Memory.read [(0x000, 0x11#8), (0x1FF, 0x22#8)] (0x1FF#12).toNat = some 0x22#8 :=
  ⟨rfl, rfl, by decide, by decide, by decide, by decide⟩

theorem test_meets_ReadReturnsRegister_registers :
    Runs Tests.loaded ∧ Tests.loaded.phase = .idle ∧ (0x200#12 = 0x200#12 ∧ 0#32 = 0#32) ∧
    (0x207#12 = 0x207#12 ∧ 3#32 = Tests.loaded.txLen) ∧ 0x20E ≤ (0x20E#12).toNat ∧ 0x20E ≤ (0xFFF#12).toNat :=
  ⟨rfl, rfl, by decide, ⟨rfl, rfl⟩, by decide, by decide⟩

theorem test_meets_ReadHasNoSideEffect :
    Runs (Tests.syncing [0xBA#8]) ∧ (∃ t, exec skipInstr (Tests.syncing [0xBA#8]) = .next t) ∧
    hostRead (Tests.syncing [0xBA#8]) 0x201#12 = .ok 0x00000101#32 ∧
    ∃ u, exec (.hostRd 0x201#12 0#32) (Tests.syncing [0xBA#8]) = .next u := ⟨rfl, ⟨_, rfl⟩, rfl, _, rfl⟩

theorem test_meets_NeverWrittenEntriesFault_read :
    Runs Tests.loaded ∧ (0x003#12).toNat < 0x200 ∧ Tests.loaded.mem.read (0x003#12).toNat = none ∧
    (0x1FF#12).toNat < 0x200 ∧ Tests.loaded.mem.read (0x1FF#12).toNat = none :=
  ⟨rfl, by decide, by decide, by decide, by decide⟩

theorem test_meets_NeverWrittenEntriesFault_calc :
    Runs (Tests.computing 255) ∧ (Tests.computing 255).phase = .calc ∧ (Tests.computing 255).cnt.toNat < 256 ∧
    (Tests.computing 255).mem.read (Tests.computing 255).cnt.toNat = none := ⟨rfl, rfl, by decide, by decide⟩

theorem test_meets_NeverWrittenEntriesFault_emit :
    Runs (Tests.sending 268) ∧ (Tests.sending 268).phase = .emit ∧
    (Tests.sending 268).eidx.toNat = 9 + (Tests.sending 268).params.len + 255 ∧ 255 < 256 ∧
    (Tests.sending 268).mem.read 255 = none := ⟨rfl, rfl, by decide, by decide, by decide⟩

theorem test_meets_WriteEffectInEveryPhase :
    (Runs (Tests.sending 3) ∧ (∃ t, exec skipInstr (Tests.sending 3) = .next t) ∧ 0x205#12 ≠ 0x200#12) ∧
    (Runs (Tests.syncing [0xBA#8]) ∧ (∃ t, exec skipInstr (Tests.syncing [0xBA#8]) = .next t) ∧ 0x0FF#12 ≠ 0x200#12) ∧
    0x100#12 ≠ 0x200#12 ∧ 0x201#12 ≠ 0x200#12 :=
  ⟨⟨rfl, ⟨_, rfl⟩, by decide⟩, ⟨rfl, ⟨_, rfl⟩, by decide⟩, by decide, by decide⟩

theorem test_meets_WriteCompletesWhenIdle :
    Runs Tests.loaded ∧ Tests.loaded.phase = .idle ∧ 0x000#12 ≠ 0x200#12 ∧ 0x0FF#12 ≠ 0x200#12 ∧ 0x207#12 ≠ 0x200#12 :=
  ⟨rfl, rfl, by decide, by decide, by decide⟩

theorem test_meets_ReservedIndicesDoNothing :
    0x20E ≤ (0x20E#12).toNat ∧ 0x20E ≤ (0xFFF#12).toNat ∧
    ∃ t, exec (.hostRd 0x20E#12 0#32) (Tests.syncing []) = .next t := ⟨by decide, by decide, _, rfl⟩

theorem test_meets_SyncStep :
    (Runs (Tests.withInput { expired := true } (Tests.syncing [0xBA#8])) ∧
      (Tests.withInput { expired := true } (Tests.syncing [0xBA#8])).input.expired = true) ∧
    (Runs (Tests.syncing []) ∧ (Tests.syncing []).phase = .sync ∧ (Tests.syncing []).input.expired = false ∧
      (Tests.syncing []).arrived = []) ∧
    ((Tests.withInput { arrive := [0xBA#8] } (Tests.syncing [])).input.expired = false ∧
      (Tests.withInput { arrive := [0xBA#8] } (Tests.syncing [])).arrived = [0xBA#8]) ∧
    { Tests.syncing [0xBA#8] with winN := true, winB := 0xBA#8 }.arrived = [0xBA#8] :=
  ⟨⟨rfl, rfl⟩, ⟨rfl, rfl, rfl, rfl⟩, ⟨rfl, rfl⟩, rfl⟩

theorem test_meets_HdrStep :
    (Runs (Tests.withInput { expired := true } (Tests.header 10 [])) ∧ (Tests.header 10 []).phase = .hdr ∧
      (Tests.header 10 []).hidx.toNat < 7 + (Tests.header 10 []).params.len) ∧
    ((Tests.header 10 []).input.expired = false ∧ (Tests.header 10 []).arrived = []) ∧
    (Tests.header 0 [0x01#8]).arrived = [0x01#8] ∧
    ((Tests.header 10 [0x09#8]).arrived = [0x09#8] ∧
      (Tests.header 10 [0x09#8]).hidx.toNat = 6 + (Tests.header 10 []).params.len ∧
      (Tests.header 10 [0x09#8]).rxlen = 0#64) ∧
    256 < { Tests.header 10 [0x09#8] with rxlen := 257#64 }.rxlen.toNat ∧
    ¬ 256 < { Tests.header 10 [0x09#8] with rxlen := 256#64 }.rxlen.toNat :=
  ⟨⟨rfl, rfl, by decide⟩, ⟨rfl, rfl⟩, rfl, ⟨rfl, by decide, rfl⟩, by decide, by decide⟩

theorem test_meets_BodyStep :
    (Runs (Tests.withInput { expired := true } (Tests.receiving [0x02#8])) ∧ (Tests.receiving [0x02#8]).phase = .body ∧
      (Tests.receiving [0x02#8]).cnt.toNat < 256) ∧
    ((Tests.receiving []).input.expired = false ∧ (Tests.receiving []).arrived = []) ∧
    (Tests.receiving [0x02#8]).arrived = [0x02#8] ∧
    ({ Tests.receiving [0x02#8] with cnt := 255#9, rxlen := 256#64 }.cnt.toNat < 256 ∧
      { Tests.receiving [0x02#8] with cnt := 255#9, rxlen := 256#64 }.cnt.toNat + 1 = (256#64).toNat) :=
  ⟨⟨rfl, rfl, by decide⟩, ⟨rfl, rfl⟩, rfl, by decide⟩

theorem test_meets_DeadlineEndsDecode :
    Runs (Tests.withInput { expired := true } (Tests.receiving [0x02#8])) ∧
    (Tests.withInput { expired := true } (Tests.receiving [0x02#8])).decoding = true ∧
    (Tests.withInput { expired := true } (Tests.receiving [0x02#8])).input.expired = true ∧
    ∃ t, step (Tests.withInput { expired := true } (Tests.receiving [0x02#8])) = .next t := ⟨rfl, rfl, rfl, _, rfl⟩

theorem test_meets_DeadlineIgnoredElsewhere :
    State.reset.decoding = false ∧ (Tests.computing 0).decoding = false ∧ (Tests.sending 0).decoding = false := by decide

theorem test_meets_CalcStep :
    (Runs (Tests.computing 2) ∧ (Tests.computing 2).phase = .calc ∧ (Tests.computing 2).cnt.toNat < 256 ∧
      (Tests.computing 2).mem.read (Tests.computing 2).cnt.toNat = some 0x03#8) ∧
    ({ Tests.computing 255 with txLen := 256#32, mem := [(255, 0x44#8)] }.cnt.toNat < 256 ∧
      Memory.read [(255, 0x44#8)] (Tests.computing 255).cnt.toNat = some 0x44#8) :=
  ⟨⟨rfl, rfl, by decide, by decide⟩, by decide, by decide⟩

theorem test_meets_EmitStep :
    (∀ e ∈ [0, 15], Runs (Tests.sending e) ∧ (Tests.sending e).phase = .emit ∧
      (Tests.sending e).eidx.toNat < (Tests.sending e).params.overhead + [0x01#8, 0x02#8, 0x03#8].length) ∧
    (Tests.sending 0).txLen.toNat = [0x01#8, 0x02#8, 0x03#8].length ∧ [0x01#8, 0x02#8, 0x03#8].length ≤ 256 ∧
    Holds (Tests.sending 0).mem txIndex [0x01#8, 0x02#8, 0x03#8] := by
  unfold Runs Holds
  decide

theorem test_meets_TypeByteIsStored :
    Runs (Tests.header 2 []) ∧ (Tests.header 2 []).phase = .hdr ∧ (Tests.header 2 []).hidx = 2#4 ∧
    (Tests.header 2 []).input.expired = false ∧
    (Instr.typeFin, 0x04#8) ∈ [(Instr.typeDiscover, 0x00#8), (.typeAlive, 0x01#8), (.typeAck, 0x02#8),
      (.typeData, 0x03#8), (.typeFin, 0x04#8)] := ⟨rfl, rfl, rfl, rfl, by decide⟩

theorem test_meets_TypeByteStepIsPlainStep :
    (Tests.receiving [0x04#8]).arrived.head? = some 0x04#8 ∧ decodeType 0x04#8 = .ok .typeFin := by decide

theorem test_meets_DecodeOfEncode :
    (Instr.hostWr 0xFFF#12 0xFFFFFFFF#32).wellFormed = true ∧ (Instr.csumAcc 0xF#4 0xFF#8 0xFFFF#16).wellFormed = true ∧
    (Instr.skip 1#1 0x200#12 0#32).wellFormed = true ∧ Instr.typeFin.wellFormed = true := by decide

theorem test_meets_EncodeOfDecode :
    (portSel 0x3FFF00000000#46 = 1#1 ∧ portWe 0x3FFF00000000#46 = 1#1 ∧ portAddr 0x3FFF00000000#46 ≠ Config.cmdIndex) ∧
    portSel 0x1FFFFFFFFFFF#46 = 0#1 ∧ decodeType 0x04#8 = .ok .typeFin := by decide

theorem test_meets_StepRunsDecodedInstruction :
    ((Instr.encode 0#4 0#8 0#16).wellFormed = true ∧ (encode (.encode 0#4 0#8 0#16)).asPort =
      some (Tests.withInput { port := 0x320000000002#46 } State.reset).input.port) ∧
    (portSel (Tests.header 2 [0x02#8]).input.port = 0#1 ∧ typeTaken (Tests.header 2 [0x02#8]) = some 0x02#8 ∧
      decodeType 0x02#8 = .ok .typeAck) ∧
    Instr.typeData.wellFormed = true := by decide

/-- The invariant holds in the middle of a frame: V-DEC-1 before its second content byte. -/
theorem test_inv_receiving : Inv (Tests.receiving [0x02#8]) where
  memWf := by decide
  accRange := by decide
  rxlenRange := by decide
  emptyWindow := by intro _; rfl
  codeRaised := by decide
  busyFlags := by intro _; exact ⟨rfl, rfl⟩
  decodeFlags := by intro _; rfl
  inSync := by intro h; cases h
  inHdr := by intro h; cases h
  inBody := by
    intro _
    refine ⟨by decide, by decide, [0x01#8], rfl, ?_, by decide, by decide⟩
    unfold Holds
    decide
  inCalc := by intro h; cases h
  inEmit := by intro h; cases h
  validFrame := by intro h; cases h

theorem test_meets_StepKeepsInvariant :
    Inv (Tests.receiving [0x02#8]) ∧ ∃ t, step (Tests.receiving [0x02#8]) = .next t := ⟨test_inv_receiving, _, rfl⟩

/-- The invariant holds at the start of CALC over a buffer that was never written. -/
theorem test_inv_computing : Inv { State.reset with phase := .calc, txLen := 256#32 } where
  memWf := by decide
  accRange := by decide
  rxlenRange := by decide
  emptyWindow := by intro _; rfl
  codeRaised := by decide
  busyFlags := by intro _; exact ⟨rfl, rfl⟩
  decodeFlags := by intro h; cases h
  inSync := by intro h; cases h
  inHdr := by intro h; cases h
  inBody := by intro h; cases h
  inCalc := by
    intro _
    refine ⟨by decide, by decide, [], rfl, ?_, by decide, by decide⟩
    unfold Holds
    decide
  inEmit := by intro h; cases h
  validFrame := by intro h; cases h

theorem test_meets_InvariantLimitsFaults_encode :
    Inv { State.reset with phase := .calc, txLen := 256#32 } ∧
    step { State.reset with phase := .calc, txLen := 256#32 } = .fault (.encodeNeverWritten 0) :=
  ⟨test_inv_computing, rfl⟩

theorem test_meets_InvariantLimitsFaults_read :
    Inv (Tests.withInput { port := portRd 0x101#12 } (Tests.receiving [0x02#8])) ∧
    step (Tests.withInput { port := portRd 0x101#12 } (Tests.receiving [0x02#8])) =
      .fault (.readNeverWritten 0x101#12) := by
  refine ⟨?_, rfl⟩
  have h := test_inv_receiving
  exact ⟨h.memWf, h.accRange, h.rxlenRange, h.emptyWindow, h.codeRaised, h.busyFlags, h.decodeFlags, h.inSync, h.inHdr,
    h.inBody, h.inCalc, h.inEmit, h.validFrame⟩

theorem test_meets_TransmitPort :
    (∃ t, step (Tests.sending 0) = .next t ∧ t.txValid = true) ∧
    ∃ t, step (Tests.syncing []) = .next t ∧ t.txValid = false := ⟨⟨_, rfl, rfl⟩, _, rfl, rfl⟩

theorem test_meets_ReceiveHandshake :
    (∃ t, step (Tests.syncing [0x55#8]) = .next t ∧ t.rxTake = true) ∧
    ∃ t, step (Tests.withInput { arrive := [0x55#8] } State.reset) = .next t ∧ t.rxTake = false :=
  ⟨⟨_, rfl, rfl⟩, _, rfl, rfl⟩

theorem test_meets_ParametersNeverChange :
    ∃ t, exec (.hostWr 0x202#12 0xFFFFFFFF#32) { State.reset with params := ⟨.two, .little⟩ } = .next t := ⟨_, rfl⟩

theorem test_meets_DoneAndRxValidChange_rise :
    ∃ t, exec skipInstr { Tests.receiving [0x03#8] with cnt := 2#9, acc := 5#32, pos := 2#2 } = .next t ∧
      (Tests.receiving []).done = false ∧ t.done = true ∧ (Tests.receiving []).rxValid = false ∧ t.rxValid = true :=
  ⟨_, rfl, rfl, rfl, rfl, rfl⟩

/-- From IDLE: the last of the four commands that end at once, and an OP at each end of the illegal range. -/
theorem test_meets_DoneAndRxValidChange_rise_idle :
    State.reset.done = false ∧ State.reset.phase = .idle ∧
    (∃ t, exec (.hostWr 0x200#12 0x00000002#32) { State.reset with txLen := 257#32 } = .next t ∧ t.done = true) ∧
    (∃ t, exec (.illegal5 0#4 0#8 0#16) State.reset = .next t ∧ t.done = true) ∧
    ∃ t, exec (.illegalF 0#4 0#8 0#16) State.reset = .next t ∧ t.done = true :=
  ⟨rfl, rfl, ⟨_, rfl, rfl⟩, ⟨_, rfl, rfl⟩, _, rfl, rfl⟩

theorem test_meets_DoneAndRxValidChange_fall :
    ∃ t, exec (.decode 0#4 0#8 0#16) { State.reset with done := true, rxValid := true } = .next t ∧ t.done = false ∧
      t.rxValid = false := ⟨_, rfl, rfl, rfl⟩

theorem test_meets_TxStateChangesOnlyByHostWrite :
    ∃ t, exec (.hostWr 0x0FF#12 0x55#32) (Tests.syncing []) = .next t := ⟨_, rfl⟩

theorem test_meets_AccumulatorWriters : ∃ t, exec (.csumAcc 0#4 0x55#8 0#16) State.reset = .next t := ⟨_, rfl⟩

theorem test_meets_ChecksumByCommands :
    State.reset.phase = .idle ∧
    { State.reset with
      inputs := cmdInput 0x00000003#32 :: [0x01#8, 0x02#8].map (fun b => cmdInput (accWord b)) ++ [] }.inputs =
      cmdInput 0x00000003#32 :: [0x01#8, 0x02#8].map (fun b => cmdInput (accWord b)) ++ [] := ⟨rfl, rfl⟩

theorem test_meets_ChecksumRange :
    (0x7FF#32).toNat < 0x800 ∧ { State.reset with acc := 0x7FF#32 }.acc.toNat < 0x800 ∧
    ∃ t, exec (.csumAcc 0#4 0xFF#8 0#16) { State.reset with acc := 0x7FF#32 } = .next t := ⟨by decide, by decide, _, rfl⟩

theorem test_meets_ChecksumDetectsSingleByteChange :
    [0x11#8, 0x22#8].length = [0x12#8, 0x23#8].length ∧ 0x00#8 ≠ 0x80#8 := by decide

theorem test_meets_ChecksumBlindSpots :
    [0x22#8, 0x33#8, 0x44#8].length % 4 = 3 ∧ [1, 5].Nodup ∧ [1, 5].length % 2 = 0 ∧
    ∀ i ∈ [1, 5], i < [0x11#8, 0x22#8, 0x33#8, 0x44#8, 0x55#8, 0x66#8].length ∧ i % 4 = 1 := by decide

theorem test_meets_FieldRoundTrip :
    (0 < 2 ∧ 8 * 2 ≤ 64) ∧ (7 < 8 ∧ 8 * 8 ≤ 64) ∧ (3 < 4 ∧ 8 * 4 ≤ 32) ∧
    (0xFFFF#64).toNat < 2 ^ (8 * (⟨.two, .little⟩ : Params).len) ∧
    (0xFFFFFFFFFFFFFFFF#64).toNat < 2 ^ (8 * (⟨.eight, .big⟩ : Params).len) := by decide

/-- Noise that ends in 0x00 after a single 0xBA; noise whose last byte is 0xBA does not meet the hypothesis (R134). -/
theorem test_meets_SyncFindsFirstMarker :
    hasMarker ([0x00#8, 0xBA#8, 0x00#8] ++ [0xBA#8]) = false ∧ hasMarker ([0x00#8, 0xBA#8] ++ [0xBA#8]) = true ∧
    hasMarker ([] ++ [0xBA#8]) = false ∧ (Tests.syncing []).phase = .sync ∧ (Tests.syncing []).winN = false ∧
    (Tests.syncing ([0x00#8] ++ 0xBA#8 :: 0xBA#8 :: [0x01#8])).chan = [0x00#8] ++ 0xBA#8 :: 0xBA#8 :: [0x01#8] ∧
    { Tests.syncing [] with inputs := List.replicate 3 StepIn.quiet ++ [] }.inputs =
      List.replicate 3 StepIn.quiet ++ [] := by decide

/-- An idle block with the given channel whose next inputs are a command and n quiet steps. -/
def Tests.commanded (s : State) (w : Word) (n : Nat) (bytes : List Byte) : State :=
  { s with chan := bytes, inputs := cmdInput w :: List.replicate n StepIn.quiet ++ [] }

/-- Contents of the least and of the greatest length, each under any transmitted checksum. -/
theorem test_meets_DecodeReceivesFrame (content : List Byte) (sum : Word) (h : 1 ≤ content.length ∧ content.length ≤ 256) :
    let s := Tests.commanded State.reset 1#32 (1 + (13 + content.length)) ([0x55#8] ++
      (wireFrame Params.default 0x01#8 0x00#8 0x03#8 (BitVec.ofNat 64 content.length) sum content ++ [0x77#8]))
    cmdOp 1#32 = 0x1#4 ∧ s.phase = .idle ∧ 1 ≤ content.length ∧ content.length ≤ 256 ∧
    hasMarker ([0x55#8] ++ [0xBA#8]) = false ∧ s.chan = [0x55#8] ++
      (wireFrame s.params 0x01#8 0x00#8 0x03#8 (BitVec.ofNat 64 content.length) sum content ++ [0x77#8]) ∧
    s.inputs = cmdInput 1#32 ::
      List.replicate ([0x55#8].length + (s.params.overhead + content.length)) StepIn.quiet ++ [] :=
  ⟨by decide, rfl, h.1, h.2, by decide, rfl, rfl⟩

theorem test_content_lengths :
    (1 ≤ [0x01#8].length ∧ [0x01#8].length ≤ 256) ∧
    1 ≤ (List.replicate 256 0xFF#8).length ∧ (List.replicate 256 0xFF#8).length ≤ 256 := by
  rw [List.length_replicate]
  decide

theorem test_meets_DecodeRejectsBadLength (len : BitVec 64) (h : len = 0#64 ∨ len = 257#64 ∨ len = 0xFFFFFFFF#64) :
    let s := Tests.commanded State.reset 1#32 (0 + 13)
      ([] ++ 0xBA#8 :: 0xBA#8 :: (wireHeader Params.default 0x01#8 0x00#8 0x03#8 len 0#32 ++ [0x77#8]))
    cmdOp 1#32 = 0x1#4 ∧ s.phase = .idle ∧ len.toNat < 2 ^ (8 * s.params.len) ∧ (len = 0#64 ∨ 256 < len.toNat) ∧
    hasMarker ([] ++ [0xBA#8]) = false ∧ s.chan =
      [] ++ 0xBA#8 :: 0xBA#8 :: (wireHeader s.params 0x01#8 0x00#8 0x03#8 len 0#32 ++ [0x77#8]) ∧
    s.inputs = cmdInput 1#32 :: List.replicate (([] : List Byte).length + s.params.overhead) StepIn.quiet ++ [] := by
  refine ⟨by decide, rfl, ?_, ?_, by decide, rfl, rfl⟩ <;> rcases h with rfl | rfl | rfl <;> decide

theorem test_meets_EncodeSendsFrame :
    let s := Tests.commanded Tests.loaded 2#32 (3 + (13 + 3)) []
    cmdOp 2#32 = 0x2#4 ∧ s.phase = .idle ∧ s.txLen.toNat = [0x01#8, 0x02#8, 0x03#8].length ∧
    [0x01#8, 0x02#8, 0x03#8].length ≤ 256 ∧ Holds s.mem txIndex [0x01#8, 0x02#8, 0x03#8] ∧
    s.inputs = cmdInput 2#32 :: List.replicate ([0x01#8, 0x02#8, 0x03#8].length +
      (s.params.overhead + [0x01#8, 0x02#8, 0x03#8].length)) StepIn.quiet ++ [] := by
  refine ⟨by decide, rfl, by decide, by decide, ?_, rfl⟩
  unfold Holds
  decide

theorem test_meets_EncodeSendsFrame_empty :
    let s := Tests.commanded State.reset 2#32 (0 + (13 + 0)) []
    s.phase = .idle ∧ s.txLen.toNat = ([] : List Byte).length ∧ Holds s.mem txIndex [] ∧
    s.inputs = cmdInput 2#32 :: List.replicate (([] : List Byte).length +
      (s.params.overhead + ([] : List Byte).length)) StepIn.quiet ++ [] := by
  refine ⟨rfl, by decide, ?_, rfl⟩
  unfold Holds
  decide

/-- The buffer that holds the bytes from entry j on. -/
def Tests.filled (j : Nat) : List Byte → Memory
  | [] => []
  | b :: bs => (j, b) :: Tests.filled (j + 1) bs

theorem Tests.read_filled (bs : List Byte) (j k : Nat) : Memory.read (Tests.filled j bs) (j + k) = bs[k]? := by
  induction bs generalizing j k with
  | nil => rfl
  | cons b bs ih =>
    cases k with
    | zero => simp [Tests.filled, Memory.read]
    | succ k =>
      rw [Tests.filled, Memory.read, if_neg (by omega), show j + (k + 1) = j + 1 + k by omega, ih]
      rfl

/-- Every content that TX_LEN can name. -/
theorem test_meets_EncodeSendsFrame_any_length (bs : List Byte) (h : bs.length ≤ 256) :
    let s := Tests.commanded { State.reset with txLen := BitVec.ofNat 32 bs.length, mem := Tests.filled 0 bs } 2#32
      (bs.length + (13 + bs.length)) []
    s.phase = .idle ∧ s.txLen.toNat = bs.length ∧ bs.length ≤ 256 ∧ Holds s.mem txIndex bs ∧
    s.inputs = cmdInput 2#32 :: List.replicate (bs.length + (s.params.overhead + bs.length)) StepIn.quiet ++ [] := by
  refine ⟨rfl, Nat.mod_eq_of_lt (by omega), h, fun k _ => ?_, rfl⟩
  have hk := Tests.read_filled bs 0 k
  rw [Nat.zero_add] at hk
  exact hk

theorem test_meets_DecodeOfEncodedFrame :
    let c := [0x01#8, 0x02#8, 0x03#8]
    let s := Tests.commanded Tests.loaded 2#32 (3 + (13 + 3)) []
    let r := Tests.commanded State.reset 1#32 (13 + 3)
      (wireFrame Params.default 0x01#8 0x00#8 0x03#8 (BitVec.ofNat 64 c.length) (csum c) c)
    cmdOp 2#32 = 0x2#4 ∧ cmdOp 1#32 = 0x1#4 ∧ s.phase = .idle ∧ r.phase = .idle ∧ r.params = s.params ∧
    s.txLen.toNat = c.length ∧ 1 ≤ c.length ∧ c.length ≤ 256 ∧ Holds s.mem txIndex c ∧
    s.inputs = cmdInput 2#32 :: List.replicate (c.length + (s.params.overhead + c.length)) StepIn.quiet ++ [] ∧
    r.inputs = cmdInput 1#32 :: List.replicate (s.params.overhead + c.length) StepIn.quiet ++ [] := by
  refine ⟨by decide, by decide, rfl, rfl, rfl, by decide, by decide, by decide, ?_, rfl, rfl⟩
  unfold Holds
  decide

/-- The second block differs in its accumulator, its RX registers and its flags. -/
theorem test_meets_RetransmissionIsIdentical :
    let c := [0x01#8, 0x02#8, 0x03#8]
    let s := Tests.commanded Tests.loaded 2#32 (3 + (13 + 3)) []
    let r := { s with acc := 5#32, pos := 1#2, rxMeta := 0x44#8, done := true, sent := [0x99#8] }
    cmdOp 2#32 = 0x2#4 ∧ s.phase = .idle ∧ r.phase = .idle ∧ r.params = s.params ∧ SameTx s r ∧
    s.txLen.toNat = c.length ∧ c.length ≤ 256 ∧ Holds s.mem txIndex c ∧ Holds r.mem txIndex c ∧
    s.inputs = cmdInput 2#32 :: List.replicate (c.length + (s.params.overhead + c.length)) StepIn.quiet ++ [] ∧
    r.inputs = cmdInput 2#32 :: List.replicate (c.length + (s.params.overhead + c.length)) StepIn.quiet ++ [] := by
  refine ⟨by decide, rfl, rfl, rfl, ⟨rfl, rfl, rfl⟩, by decide, by decide, ?_, ?_, rfl, rfl⟩ <;> unfold Holds <;> decide

theorem test_meets_SearchWithoutMarkerNeverEnds :
    (Tests.syncing [0xBA#8, 0x55#8]).phase = .sync ∧
    (∀ i ∈ (Tests.withInput { port := portRd 0x201#12 } (Tests.syncing [0xBA#8, 0x55#8])).inputs, i.poll) ∧
    hasMarker ((Tests.syncing [0xBA#8, 0x55#8]).window ++ (Tests.syncing [0xBA#8, 0x55#8]).chan) = false := by
  refine ⟨rfl, ?_, by decide⟩
  intro i hi
  rw [List.mem_singleton.1 hi]
  exact ⟨rfl, rfl, rfl, Or.inr rfl⟩

theorem test_meets_WaitDoneOnHangNeverHalts :
    let r : HostRun := { prog := waitDone 0 1 ++ [.halt], pc := 0, locals := [], pauses := [true, false]
                         block := Tests.syncing [0x55#8] }
    r.prog = waitDone 0 1 ++ [.halt] ∧ r.pc = 0 ∧ r.block.phase = .sync ∧ r.block.done = false ∧
    (∀ i ∈ r.block.inputs, i.poll) ∧ hasMarker (r.block.window ++ r.block.chan) = false := by
  refine ⟨rfl, rfl, rfl, rfl, ?_, by decide⟩
  intro i hi
  cases hi

/-- A host that lets a step of a running ENCODE pass: the block goes on, the program does not. -/
theorem test_meets_HostPaceIsFree_pause :
    let r : HostRun := { prog := [.wr 0x207#12 5#32, .halt], pc := 0, locals := [], pauses := [true, false]
                         block := Tests.sending 0 }
    r.pauses = true :: [false] ∧ r.move ≠ .halted ∧
    ∃ t, Sys2Proof.Machine.step (drivePort portSkip r.block) = .next t ∧ t.txValid = true :=
  ⟨rfl, by decide, _, rfl, rfl⟩

/-- Two pauses before a write that then happens as without them. -/
theorem test_meets_HostPaceIsFree_idle :
    let r : HostRun := { prog := [.wr 0x207#12 5#32, .halt], pc := 0, locals := [], pauses := [], block := State.reset }
    r.block.phase = .idle ∧ r.pauses = [] ∧ r.block.inputs = [] ∧
    (HostRun.steps 3 { r with
      pauses := List.replicate 2 true ++ [],
      block := { r.block with inputs := List.replicate 2 StepIn.quiet ++ [] } }).map
        (fun r' => (r'.pc, r'.block.txLen)) = some (1, 5#32) := by decide
end

section
/-!
PROOFS. The scope family: no step changes the parameters, and a DECODE without a deadline whose stream holds no marker
searches on.
-/
namespace Sys2Proof.Machine

/-! ### The parameters -/

/-- The six commands that a word written to CMD can start, by its OP (R91, R204). -/
theorem dispatch_cases (w : Word) (s : State) :
    (cmdOp w = 0x0#4 ∧ dispatch w s = nopStart s) ∨ (cmdOp w = 0x1#4 ∧ dispatch w s = decodeStart s) ∨
    (cmdOp w = 0x2#4 ∧ dispatch w s = encodeStart s) ∨ (cmdOp w = 0x3#4 ∧ dispatch w s = csumClearStart s) ∨
    (cmdOp w = 0x4#4 ∧ dispatch w s = csumAccStart (cmdArg w) s) ∨
    (0x5 ≤ (cmdOp w).toNat ∧ dispatch w s = illegalStart s) := by
  have hop : ∀ op : BitVec 4, op = 0x0#4 ∨ op = 0x1#4 ∨ op = 0x2#4 ∨ op = 0x3#4 ∨ op = 0x4#4 ∨ 0x5 ≤ op.toNat := by
    decide
  rcases hop (cmdOp w) with h | h | h | h | h | h
  · exact .inl ⟨h, dispatch_nop h s⟩
  · exact .inr (.inl ⟨h, dispatch_decode h s⟩)
  · exact .inr (.inr (.inl ⟨h, dispatch_encode h s⟩))
  · exact .inr (.inr (.inr (.inl ⟨h, dispatch_csumClear h s⟩)))
  · exact .inr (.inr (.inr (.inr (.inl ⟨h, dispatch_csumAcc h s⟩))))
  · exact .inr (.inr (.inr (.inr (.inr ⟨h, dispatch_illegal h s⟩))))

@[simp] theorem resetStep_params (s : State) : (resetStep s).params = s.params := rfl

@[simp] theorem encodeStart_params (s : State) : (encodeStart s).params = s.params := by
  unfold encodeStart
  split <;> rfl

@[simp] theorem dispatch_params (w : Word) (s : State) : (dispatch w s).params = s.params := by
  rcases dispatch_cases w s with ⟨-, e⟩ | ⟨-, e⟩ | ⟨-, e⟩ | ⟨-, e⟩ | ⟨-, e⟩ | ⟨-, e⟩ <;>
    simp [e, nopStart, decodeStart, csumClearStart, csumAccStart, illegalStart]

@[simp] theorem hostWrite_params (e : Bool) (i : Index) (w : Word) (t : State) :
    (hostWrite e i w t).params = t.params := by
  rw [hostWrite_eq]

theorem phaseStep_params {inp : StepIn} {s t : State} (h : phaseStep inp s = .ok t) : t.params = s.params :=
  (phaseStep_frame h).1

theorem exec_params {i : Instr} {s t : State} (h : exec i s = .next t) : t.params = s.params := by
  rcases exec_next h with ⟨-, rfl⟩ | ⟨-, ⟨-, w, -, rfl⟩ | ⟨u, hu, hshape⟩ | ⟨c, -, hu⟩⟩
  · exact resetStep_params s
  · exact dispatch_params w (beginStep s)
  · have hp : u.params = s.params := (phaseStep_params hu).trans (beginStep_params s)
    rcases hshape with ⟨-, -, rfl⟩ | ⟨_, _, v, -, -, rfl⟩ | ⟨a, w, -, -, rfl⟩ | ⟨_, _, _, -, rfl⟩
    · exact hp
    · exact hp
    · exact (hostWrite_params _ a w u).trans hp
    · exact hp
  · exact (phaseStep_params hu).trans (present_params c (beginStep s))

/-- Settles O39: every shape of a next state (`exec_next`) keeps the parameters, and CFG is computed from them. -/
theorem parametersNeverChange : Obligations.ParametersNeverChange := by
  unfold Obligations.ParametersNeverChange
  intro i s t h
  exact ⟨exec_params h, congrArg cfgWord (exec_params h)⟩

/-! ### Steps in which the host at most polls STATUS -/

@[simp] theorem portSel_portSkip : portSel portSkip = 0#1 := by decide

@[simp] theorem decodePort_portRd (a : Index) : decodePort (portRd a) = .hostRd a 0#32 := by
  simp [decodePort, portRd]

@[simp] theorem portSel_portRd (a : Index) : portSel (portRd a) = 1#1 := by
  simp [portRd]

theorem hostRead_status (s : State) : hostRead s 0x201#12 = .ok s.status := rfl

theorem step_of_portRd {s : State} {a : Index} (h : s.input.port = portRd a) : step s = readStep a s := by
  have hf : fetch s = .hostRd a 0#32 := by
    rcases fetch_cases s with ⟨-, e⟩ | ⟨h0, -⟩ | ⟨h0, -⟩
    · rw [e, h, decodePort_portRd]
    all_goals simp [h] at h0
  rw [step, hf]
  rfl

/-- Past the end of the listed inputs a step is quiet, which is a poll too (log entry 2). -/
theorem input_poll {s : State} (h : ∀ i ∈ s.inputs, i.poll) : s.input.poll := by
  unfold State.input
  cases hl : s.inputs with
  | nil => exact ⟨rfl, rfl, rfl, .inl rfl⟩
  | cons i l => exact h i (by simp [hl])

/-- A polled step is the sequencer's action, with at most the read data beside it. -/
theorem step_of_poll {s u : State} (hp : s.input.poll) (hu : phaseStep s.input (beginStep s) = .ok u) :
    ∃ v, step s = .next { u with regRdata := v } := by
  obtain ⟨hrst, -, -, hport | hport⟩ := hp
  · refine ⟨u.regRdata, ?_⟩
    rw [step_of_noAccess (by simp [hport])]
    exact skipStep_next.2 (.inr ⟨hrst, hu⟩)
  · refine ⟨(beginStep s).status, ?_⟩
    rw [step_of_portRd hport]
    exact readStep_next.2 (.inr ⟨hrst, _, u, hostRead_status _, hu, rfl⟩)

/-! ### The search -/

/-- A window and channel without the marker: the next byte does not complete one, and from that byte on there is none
either. -/
theorem noMarker_next {s : State} {b : Byte} {rest : List Byte} (h : hasMarker (s.window ++ b :: rest) = false) :
    ¬ (s.winN = true ∧ s.winB = Config.magicB0 ∧ b = Config.magicB1) ∧ hasMarker (b :: rest) = false := by
  unfold State.window at h
  cases hw : s.winN with
  | false => simpa [hw] using h
  | true => simpa [hw, hasMarker] using h

/-- What a SYNC step before the deadline does when the next byte does not complete the marker (R131). -/
theorem syncStep_of_noMarker {inp : StepIn} {s : State} (he : inp.expired = false)
    (hm : hasMarker (s.window ++ s.chan) = false) :
    ∃ u, syncStep inp s = .ok u ∧ u.phase = s.phase ∧ hasMarker (u.window ++ u.chan) = false ∧
      u.chan = s.chan.drop 1 ∧ SameFlags s u ∧ u.sent = s.sent ∧ u.inputs = s.inputs := by
  cases hc : s.chan with
  | nil => exact ⟨s, rxStep_ok.2 (.inr (.inl ⟨he, hc, rfl⟩)), rfl, hm, hc, ⟨rfl, rfl, rfl, rfl⟩, rfl, rfl⟩
  | cons b rest =>
    rw [hc] at hm
    obtain ⟨hno, hrest⟩ := noMarker_next hm
    have hslide : syncByte b (takeByte rest s) = { takeByte rest s with winN := true, winB := b } := by
      rcases syncByte_cases b (takeByte rest s) with ⟨h1, h2, h3, -⟩ | ⟨-, e⟩
      · exact absurd ⟨h1, h2, h3⟩ hno
      · exact e
    exact ⟨_, rxStep_ok.2 (.inr (.inr ⟨b, rest, he, hc, congrArg Except.ok hslide⟩)), rfl, hrest, rfl,
      ⟨rfl, rfl, rfl, rfl⟩, rfl, rfl⟩

/-- A DECODE in SYNC with no deadline to come and no marker in its window and channel (R136, R261). -/
structure Searching (s : State) : Prop where
  phase : s.phase = .sync
  polls : ∀ i ∈ s.inputs, i.poll
  noMarker : hasMarker (s.window ++ s.chan) = false

/-- Every step of such a DECODE is another one, which has used up one byte if there was one. -/
theorem Searching.step {s : State} (h : Searching s) :
    ∃ t, Machine.step s = .next t ∧ Searching t ∧ SameFlags s t ∧ t.sent = s.sent ∧ t.chan = s.chan.drop 1 := by
  have hp : s.input.poll := input_poll h.polls
  have ⟨_, hexp, harr, _⟩ := hp
  have hchan : (beginStep s).chan = s.chan := by simp [harr]
  have hm : hasMarker ((beginStep s).window ++ (beginStep s).chan) = false := by
    rw [hchan]
    exact h.noMarker
  obtain ⟨u, hu, hphase, hmark, hdrop, hflags, hsent, hinputs⟩ := syncStep_of_noMarker hexp hm
  have hstep : phaseStep s.input (beginStep s) = .ok u := by
    simpa only [phaseStep, beginStep_phase, h.phase] using hu
  obtain ⟨v, hv⟩ := step_of_poll hp hstep
  have hpolls : ∀ i ∈ u.inputs, i.poll := by
    rw [hinputs, beginStep_inputs]
    exact fun i hi => h.polls i (List.mem_of_mem_tail hi)
  exact ⟨_, hv, ⟨hphase.trans h.phase, hpolls, hmark⟩, hflags, hsent, by rw [hdrop, hchan]⟩

theorem SameFlags.refl (s : State) : SameFlags s s := ⟨rfl, rfl, rfl, rfl⟩

theorem SameFlags.trans {s t u : State} (h : SameFlags s t) (h' : SameFlags t u) : SameFlags s u := by
  obtain ⟨hd, hv, ho, hc⟩ := h
  obtain ⟨hd', hv', ho', hc'⟩ := h'
  exact ⟨hd'.trans hd, hv'.trans hv, ho'.trans ho, hc'.trans hc⟩

theorem Searching.run (n : Nat) {s : State} (h : Searching s) :
    ∃ t : State, Host.Core.run Sys2Proof.core n s = .next t ∧ Searching t ∧ SameFlags s t ∧ t.sent = s.sent ∧
      t.chan = s.chan.drop n := by
  induction n generalizing s with
  | zero => exact ⟨s, rfl, h, SameFlags.refl s, rfl, rfl⟩
  | succ n ih =>
    obtain ⟨t, hst, ht, hflags, hsent, hchan⟩ := h.step
    obtain ⟨u, hrun, hu, hflags', hsent', hchan'⟩ := ih ht
    refine ⟨u, (run_succ n hst).trans hrun, hu, hflags.trans hflags', hsent'.trans hsent, ?_⟩
    rw [hchan', hchan, List.drop_drop, Nat.add_comm]

/-- Settles O58: `Searching` holds at the start, each step keeps it, and it includes the phase. -/
theorem searchWithoutMarkerNeverEnds : Obligations.SearchWithoutMarkerNeverEnds := by
  unfold Obligations.SearchWithoutMarkerNeverEnds
  intro n s hphase hpolls hmark
  obtain ⟨t, hrun, ht, hrest⟩ := Searching.run n ⟨hphase, hpolls, hmark⟩
  exact ⟨t, hrun, ht.phase, hrest⟩

end Sys2Proof.Machine
end

section
/-!
PROOFS. The state family: the reset values and the computed registers, what every step keeps of the ports and of the
flags, and the invariant of every run.
-/
namespace Sys2Proof.Machine

/-! ### The invariant by phase -/

/-- What a running command's flags are (R150, R180; log entry 19). -/
def BusyFlags (s : State) : Prop := s.done = false ∧ s.code = .ok

/-- The accumulator holds the checksum of the first n bytes of the buffer at the indices `at_`. -/
def Summed (at_ : Nat → Nat) (n : Nat) (s : State) : Prop :=
  ∃ c, c.length = n ∧ Holds s.mem at_ c ∧ Accumulated s c

/-- A whole, checked frame stands behind RX_VALID (R155, R159). -/
def ValidFrame (s : State) : Prop :=
  s.rxValid = true → ∃ c, c.length = s.rxlen.toNat ∧ 1 ≤ c.length ∧ c.length ≤ Config.maxContent ∧
    Holds s.mem rxIndex c ∧ csum c = s.rxCsum

/-- The part of `Inv` that does not ask for the phase. -/
structure InvAlways (s : State) : Prop where
  memWf : s.mem.wf = true
  accRange : s.acc.toNat < 0x800
  rxlenRange : s.rxlen.toNat < 2 ^ (8 * s.params.len)
  emptyWindow : s.winN = false → s.winB = 0#8
  codeRaised : s.code ≠ .internalStateCorrupted ∧ s.code ≠ .invalidContent
  validFrame : ValidFrame s

/-- The part of `Inv` that speaks of the running phase. -/
def InvPhase (s : State) : Prop :=
  match s.phase with
  | .idle => True
  | .sync => BusyFlags s ∧ s.rxValid = false ∧ s.acc = 0#32 ∧ s.pos = 0#2
  | .hdr => BusyFlags s ∧ s.rxValid = false ∧ s.hidx.toNat < s.params.hlen ∧ s.winN = false ∧ s.acc = 0#32 ∧ s.pos = 0#2
  | .body => BusyFlags s ∧ s.rxValid = false ∧ s.rxlen.toNat ≤ Config.maxContent ∧ s.cnt.toNat < s.rxlen.toNat ∧
      Summed rxIndex s.cnt.toNat s
  | .calc => BusyFlags s ∧ s.txLen.toNat ≤ Config.maxContent ∧ s.cnt.toNat < s.txLen.toNat ∧
      Summed txIndex s.cnt.toNat s
  | .emit => BusyFlags s ∧ s.txLen.toNat ≤ Config.maxContent ∧
      s.eidx.toNat < s.params.overhead + s.txLen.toNat ∧ Summed txIndex s.txLen.toNat s

/-! What the second part says in each phase. -/

theorem invPhase_idle {s : State} (hp : s.phase = .idle) : InvPhase s := by
  simp only [InvPhase, hp]

theorem invPhase_sync {s : State} (hp : s.phase = .sync) :
    InvPhase s ↔ BusyFlags s ∧ s.rxValid = false ∧ s.acc = 0#32 ∧ s.pos = 0#2 := by
  simp only [InvPhase, hp]

theorem invPhase_hdr {s : State} (hp : s.phase = .hdr) :
    InvPhase s ↔ BusyFlags s ∧ s.rxValid = false ∧ s.hidx.toNat < s.params.hlen ∧ s.winN = false ∧
      s.acc = 0#32 ∧ s.pos = 0#2 := by
  simp only [InvPhase, hp]

theorem invPhase_body {s : State} (hp : s.phase = .body) :
    InvPhase s ↔ BusyFlags s ∧ s.rxValid = false ∧ s.rxlen.toNat ≤ Config.maxContent ∧
      s.cnt.toNat < s.rxlen.toNat ∧ Summed rxIndex s.cnt.toNat s := by
  simp only [InvPhase, hp]

theorem invPhase_calc {s : State} (hp : s.phase = .calc) :
    InvPhase s ↔ BusyFlags s ∧ s.txLen.toNat ≤ Config.maxContent ∧ s.cnt.toNat < s.txLen.toNat ∧
      Summed txIndex s.cnt.toNat s := by
  simp only [InvPhase, hp]

theorem invPhase_emit {s : State} (hp : s.phase = .emit) :
    InvPhase s ↔ BusyFlags s ∧ s.txLen.toNat ≤ Config.maxContent ∧
      s.eidx.toNat < s.params.overhead + s.txLen.toNat ∧ Summed txIndex s.txLen.toNat s := by
  simp only [InvPhase, hp]

/-- `Inv` is its two parts. -/
theorem inv_iff {s : State} : Inv s ↔ InvAlways s ∧ InvPhase s := by
  constructor
  · intro h
    refine ⟨⟨h.memWf, h.accRange, h.rxlenRange, h.emptyWindow, h.codeRaised, h.validFrame⟩, ?_⟩
    have busy : s.phase ≠ .idle → BusyFlags s := fun hp => h.busyFlags (by simpa [State.busy] using hp)
    have decode : s.decoding = true → s.rxValid = false := h.decodeFlags
    cases hp : s.phase with
    | idle => exact invPhase_idle hp
    | sync =>
      exact Iff.mpr (invPhase_sync hp) ⟨busy (by simp [hp]), decode (by simp [State.decoding, hp]), h.inSync hp⟩
    | hdr => exact Iff.mpr (invPhase_hdr hp) ⟨busy (by simp [hp]), decode (by simp [State.decoding, hp]), h.inHdr hp⟩
    | body => exact Iff.mpr (invPhase_body hp) ⟨busy (by simp [hp]), decode (by simp [State.decoding, hp]), h.inBody hp⟩
    | emit => exact Iff.mpr (invPhase_emit hp) ⟨busy (by simp [hp]), h.inEmit hp⟩
    -- CALC is the phase left; its constructor is spelled like a keyword.
    | _ => exact Iff.mpr (invPhase_calc hp) ⟨busy (by simp [hp]), h.inCalc hp⟩
  · rintro ⟨ha, hph⟩
    exact
      { memWf := ha.memWf
        accRange := ha.accRange
        rxlenRange := ha.rxlenRange
        emptyWindow := ha.emptyWindow
        codeRaised := ha.codeRaised
        validFrame := ha.validFrame
        busyFlags := by
          intro hb
          cases hp : s.phase <;> simp only [InvPhase, hp] at hph
          case idle => simp [State.busy, hp] at hb
          all_goals exact hph.1
        decodeFlags := by
          intro hd
          cases hp : s.phase <;> simp only [InvPhase, hp] at hph
          case sync | hdr | body => exact hph.2.1
          all_goals simp [State.decoding, hp] at hd
        inSync := fun hp => ((invPhase_sync hp).1 hph).2.2
        inHdr := fun hp => ((invPhase_hdr hp).1 hph).2.2
        inBody := fun hp => ((invPhase_body hp).1 hph).2.2
        inCalc := fun hp => ((invPhase_calc hp).1 hph).2
        inEmit := fun hp => ((invPhase_emit hp).1 hph).2 }

/-- A state that differs only in what `Inv` does not speak of meets it too. -/
theorem Inv.outside {s : State} (h : Inv s) (ovr : Bool) (txMeta txType rxVersion rxMeta rxType : Byte)
    (rxTake txValid : Bool) (txData : Byte) (regRdata : Word) (chan sent : List Byte) (inputs : List StepIn) :
    Inv { s with
      ovr := ovr, txMeta := txMeta, txType := txType, rxVersion := rxVersion, rxMeta := rxMeta, rxType := rxType
      rxTake := rxTake, txValid := txValid, txData := txData, regRdata := regRdata, chan := chan, sent := sent
      inputs := inputs } := by
  obtain ⟨⟨hm, ha, hl, hw, hc, hv⟩, hp⟩ := inv_iff.1 h
  exact inv_iff.2 ⟨⟨hm, ha, hl, hw, hc, hv⟩, hp⟩

theorem Inv.beginStep {s : State} (h : Inv s) : Inv (beginStep s) := h.outside ..

theorem Inv.takeByte {s : State} (h : Inv s) (rest : List Byte) : Inv (takeByte rest s) := h.outside ..

theorem Inv.setOvr {s : State} (h : Inv s) : Inv (setOvr s) := h.outside ..

theorem zero_accRange : (0#32).toNat < 0x800 := by decide

theorem ok_raised : Code.ok ≠ .internalStateCorrupted ∧ Code.ok ≠ .invalidContent := by decide

/-- `Finish` with a status the block raises keeps the first part, and no command runs after it (R96, R221). -/
theorem InvAlways.finish {s : State} (h : InvAlways s) (c : Code)
    (hc : c ≠ .internalStateCorrupted ∧ c ≠ .invalidContent) : Inv (finish c s) :=
  inv_iff.2 ⟨⟨h.memWf, h.accRange, h.rxlenRange, h.emptyWindow, hc, h.validFrame⟩, invPhase_idle rfl⟩

/-! ### Reset -/

theorem resetOf_inv (p : Params) : Inv (State.resetOf p) :=
  inv_iff.2 ⟨⟨rfl, zero_accRange, Nat.two_pow_pos _, fun _ => rfl, ok_raised, fun h => by cases h⟩, invPhase_idle rfl⟩

theorem resetStep_inv (s : State) : Inv (resetStep s) := (resetOf_inv s.params).outside ..

/-! ### The accumulator and the buffers -/

/-- One more byte keeps the accumulator within 11 bits (R113). -/
theorem accByte_range (b : Byte) {s : State} (h : s.acc.toNat < 0x800) : (accByte b s).acc.toNat < 0x800 := by
  have hshift : b.toNat <<< s.pos.toNat < 2 ^ 11 := by
    rw [Nat.shiftLeft_eq]
    calc b.toNat * 2 ^ s.pos.toNat
        ≤ b.toNat * 2 ^ 3 := Nat.mul_le_mul_left _ (Nat.pow_le_pow_right (by omega) (by omega))
      _ < 2 ^ 11 := by omega
  rw [accByte_acc, BitVec.toNat_xor]
  refine Nat.xor_lt_two_pow (n := 11) h ?_
  rw [BitVec.toNat_shiftLeft, BitVec.toNat_setWidth_of_le (by omega)]
  exact Nat.lt_of_le_of_lt (Nat.mod_le _ _) hshift

/-- The empty content is summed in a cleared accumulator. -/
theorem summed_nil {at_ : Nat → Nat} {s : State} (ha : s.acc = 0#32) (hp : s.pos = 0#2) : Summed at_ 0 s :=
  ⟨[], rfl, by simp [Holds], by simpa [csum, csumFrom] using ha, by simp [hp]⟩

theorem holds_snoc {m : Memory} {at_ : Nat → Nat} {c : List Byte} {b : Byte} (h : Holds m at_ c)
    (hb : m.read (at_ c.length) = some b) : Holds m at_ (c ++ [b]) := by
  intro k hk
  rcases Nat.lt_or_ge k c.length with hlt | hge
  · rw [List.getElem?_append_left hlt]
    exact h k hlt
  · have : k = c.length := by
      simp at hk
      omega
    subst this
    simpa using hb

/-- The next byte of the buffer, once accumulated, is summed too (R111, R112). -/
theorem Summed.accByte {at_ : Nat → Nat} {n : Nat} {s : State} {b : Byte} (h : Summed at_ n s)
    (hb : s.mem.read (at_ n) = some b) : Summed at_ (n + 1) (accByte b s) := by
  obtain ⟨c, rfl, hold, hacc⟩ := h
  exact ⟨c ++ [b], by simp, holds_snoc hold hb, accumulated_snoc b hacc⟩

/-- Bytes held at indices that a write does not touch stay held. -/
theorem holds_write {m : Memory} {at_ : Nat → Nat} {c : List Byte} (h : Holds m at_ c) {i : Nat} (b : Byte)
    (hi : ∀ k, k < c.length → at_ k ≠ i) : Holds (m.write i b) at_ c := fun k hk => by
  rw [Memory.read_write_other m b (hi k hk)]
  exact h k hk

/-- RXBUF[n] stored behind n summed bytes leaves them summed. -/
theorem Summed.storeRx {n : Nat} {s : State} (b : Byte) (h : Summed rxIndex n s) :
    Summed rxIndex n (storeRx n b s) := by
  obtain ⟨c, rfl, hold, hacc⟩ := h
  exact ⟨c, rfl, holds_write hold b fun k hk => by simp only [rxIndex]; omega, hacc⟩

/-! ### The received length -/

/-- A placed byte keeps a W-byte field within its W bytes (R83). -/
theorem placeByte_lt {n : Nat} (o : ByteOrder) (W j : Nat) (b : Byte) (v : BitVec n) (h : v.toNat < 2 ^ (8 * W)) :
    (placeByte o W j b v).toNat < 2 ^ (8 * W) := by
  unfold placeByte
  split
  · rename_i hj
    have hpos : bytePos o W j < W := by
      cases o <;> simp only [bytePos] <;> omega
    have hb : b.toNat <<< (8 * bytePos o W j) < 2 ^ (8 * W) := by
      rw [Nat.shiftLeft_eq]
      calc b.toNat * 2 ^ (8 * bytePos o W j)
          < 2 ^ 8 * 2 ^ (8 * bytePos o W j) := Nat.mul_lt_mul_of_pos_right b.isLt (Nat.two_pow_pos _)
        _ = 2 ^ (8 + 8 * bytePos o W j) := (Nat.pow_add _ _ _).symm
        _ ≤ 2 ^ (8 * W) := Nat.pow_le_pow_right (by omega) (by omega)
    rw [BitVec.toNat_or, BitVec.toNat_and]
    refine Nat.or_lt_two_pow (Nat.lt_of_le_of_lt Nat.and_le_left h) ?_
    rw [BitVec.toNat_shiftLeft, BitVec.toNat_setWidth]
    refine Nat.lt_of_le_of_lt (Nat.mod_le _ _) (Nat.lt_of_le_of_lt ?_ hb)
    rw [Nat.shiftLeft_eq, Nat.shiftLeft_eq]
    exact Nat.mul_le_mul_right _ (Nat.mod_le _ _)
  · exact h

theorem placeHeaderByte_rxlen_lt (h : Nat) (b : Byte) {s : State} (hl : s.rxlen.toNat < 2 ^ (8 * s.params.len)) :
    (placeHeaderByte h b s).rxlen.toNat < 2 ^ (8 * s.params.len) := by
  rw [placeHeaderByte_rxlen]
  split
  · exact placeByte_lt _ _ _ _ _ hl
  · exact hl

/-! ### The phases of DECODE -/

theorem syncByte_inv (b : Byte) {s : State} (h : Inv s) (hp : s.phase = .sync) : Inv (syncByte b s) := by
  obtain ⟨hA, hP⟩ := inv_iff.1 h
  obtain ⟨hbusy, hval, hacc, hpos⟩ := (invPhase_sync hp).1 hP
  rcases syncByte_cases b s with ⟨-, -, -, e⟩ | ⟨-, e⟩
  · rw [e]
    refine inv_iff.2 ⟨⟨hA.memWf, hA.accRange, hA.rxlenRange, fun _ => rfl, hA.codeRaised, hA.validFrame⟩,
      Iff.mpr (invPhase_hdr rfl) ⟨hbusy, hval, ?_, rfl, hacc, hpos⟩⟩
    simp [Params.hlen]
  · rw [e]
    exact inv_iff.2 ⟨⟨hA.memWf, hA.accRange, hA.rxlenRange, (fun hn => by cases hn), hA.codeRaised, hA.validFrame⟩,
      Iff.mpr (invPhase_sync hp) ⟨hbusy, hval, hacc, hpos⟩⟩

/-- A placed header byte keeps the invariant of HDR: the length stays in its range, and RX_VALID is 0 meanwhile. -/
theorem placeHeaderByte_inv (k : Nat) (b : Byte) {s : State} (h : Inv s) (hp : s.phase = .hdr) :
    Inv (placeHeaderByte k b s) := by
  obtain ⟨hA, hP⟩ := inv_iff.1 h
  obtain ⟨hbusy, hval, hrest⟩ := (invPhase_hdr hp).1 hP
  rw [placeHeaderByte_eq]
  refine inv_iff.2 ⟨⟨hA.memWf, hA.accRange, placeHeaderByte_rxlen_lt k b hA.rxlenRange, hA.emptyWindow,
    hA.codeRaised, fun hv => ?_⟩, Iff.mpr (invPhase_hdr hp) ⟨hbusy, hval, hrest⟩⟩
  exact absurd (hval.symm.trans hv) (by decide)

theorem checkLength_inv {s : State} (h : Inv s) (hp : s.phase = .hdr) : Inv (checkLength s) := by
  obtain ⟨hA, hP⟩ := inv_iff.1 h
  obtain ⟨hbusy, hval, -, -, hacc, hpos⟩ := (invPhase_hdr hp).1 hP
  rcases checkLength_cases s with ⟨-, e⟩ | ⟨-, e⟩ | ⟨h1, h2, e⟩ <;> rw [e]
  · exact hA.finish _ (by decide)
  · exact hA.finish _ (by decide)
  · exact inv_iff.2 ⟨⟨hA.memWf, hA.accRange, hA.rxlenRange, hA.emptyWindow, hA.codeRaised, hA.validFrame⟩,
      Iff.mpr (invPhase_body rfl) ⟨hbusy, hval, h2, h1, summed_nil hacc hpos⟩⟩

/-- The next header position is within the header. -/
theorem countHeader_inv {s : State} (h : Inv s) (hp : s.phase = .hdr) (hlast : s.hidx.toNat ≠ s.params.hlen - 1) :
    Inv (countHeader s) := by
  obtain ⟨hA, hP⟩ := inv_iff.1 h
  obtain ⟨hbusy, hval, hidx, hrest⟩ := (invPhase_hdr hp).1 hP
  have hnext : (s.hidx + 1#4).toNat < s.params.hlen := by
    have := len_range s.params
    unfold Params.hlen at *
    rw [BitVec.toNat_add]
    simp
    omega
  exact inv_iff.2 ⟨⟨hA.memWf, hA.accRange, hA.rxlenRange, hA.emptyWindow, hA.codeRaised, hA.validFrame⟩,
    Iff.mpr (invPhase_hdr hp) ⟨hbusy, hval, hnext, hrest⟩⟩

@[simp] theorem placeHeaderByte_phase (k : Nat) (b : Byte) (s : State) :
    (placeHeaderByte k b s).phase = s.phase := by
  rw [placeHeaderByte_eq]

@[simp] theorem placeHeaderByte_hidx (k : Nat) (b : Byte) (s : State) : (placeHeaderByte k b s).hidx = s.hidx := by
  rw [placeHeaderByte_eq]

@[simp] theorem placeHeaderByte_params (k : Nat) (b : Byte) (s : State) :
    (placeHeaderByte k b s).params = s.params := by
  rw [placeHeaderByte_eq]

theorem hdrByte_inv (b : Byte) {s : State} (h : Inv s) (hp : s.phase = .hdr) : Inv (hdrByte b s) := by
  have hplace := placeHeaderByte_inv s.hidx.toNat b h hp
  rcases hdrByte_cases b s with ⟨-, e⟩ | ⟨hlast, e⟩ <;> rw [e]
  · exact checkLength_inv hplace (by simpa using hp)
  · exact countHeader_inv hplace (by simpa using hp) (by simpa using hlast)

/-- The content counter does not wrap below the buffers' size (R43, R47). -/
theorem toNat_count {n : BitVec 9} (h : n.toNat < 511) : (n + 1#9).toNat = n.toNat + 1 := by
  rw [BitVec.toNat_add]
  simp
  omega

/-- The comparison after the last content byte keeps the invariant: a frame behind RX_VALID is a checked one (R155). -/
theorem compareChecksum_inv {u : State} (hA : InvAlways u) (hpos : 1 ≤ u.rxlen.toNat)
    (hmax : u.rxlen.toNat ≤ Config.maxContent) (hsum : Summed rxIndex u.rxlen.toNat u) : Inv (compareChecksum u) := by
  rcases compareChecksum_cases u with ⟨heq, e⟩ | ⟨-, e⟩ <;> rw [e]
  · obtain ⟨c, hlen, hold, hacc, -⟩ := hsum
    have hvalid : ValidFrame (acceptFrame u) := fun _ =>
      ⟨c, hlen, by omega, by omega, hold, hacc.symm.trans heq⟩
    obtain ⟨hm, ha, hl, hw, -, -⟩ := hA
    exact inv_iff.2 ⟨⟨hm, ha, hl, hw, ok_raised, hvalid⟩, invPhase_idle rfl⟩
  · exact hA.finish _ (by decide)

/-- A content byte stored, accumulated and counted is summed with those before it (R112, R154). -/
theorem storeContent_summed (b : Byte) {s : State} (h : Summed rxIndex s.cnt.toNat s) :
    Summed rxIndex (s.cnt.toNat + 1) (countContent (accByte b (storeRx s.cnt.toNat b s))) :=
  (h.storeRx b).accByte (Memory.read_write_same _ _ _)

/-- It keeps what `Inv` says in every phase, RX_VALID being 0 while a DECODE runs. -/
theorem storeContent_always (b : Byte) {s : State} (h : InvAlways s) (hcnt : s.cnt.toNat < 256)
    (hval : s.rxValid = false) : InvAlways (countContent (accByte b (storeRx s.cnt.toNat b s))) :=
  { memWf := Memory.wf_write _ _ _ (by simp only [rxIndex]; omega) h.memWf
    accRange := accByte_range b (s := storeRx s.cnt.toNat b s) h.accRange
    rxlenRange := h.rxlenRange
    emptyWindow := h.emptyWindow
    codeRaised := h.codeRaised
    validFrame := fun hv => absurd (hval.symm.trans hv) (by decide) }

theorem bodyByte_inv {b : Byte} {s t : State} (h : Inv s) (hp : s.phase = .body) (hs : bodyByte b s = .ok t) :
    Inv t := by
  obtain ⟨hA, hP⟩ := inv_iff.1 h
  obtain ⟨hbusy, hval, hmax, hcnt, hsum⟩ := (invPhase_body hp).1 hP
  obtain ⟨hbuf, hcases⟩ := bodyByte_ok.1 hs
  have hbuf' : s.cnt.toNat < 256 := hbuf
  have hA' := storeContent_always b hA hbuf' hval
  have hsum' := storeContent_summed b hsum
  rcases hcases with ⟨hlast, rfl⟩ | ⟨hmore, rfl⟩
  · exact compareChecksum_inv hA' (Nat.zero_lt_of_lt hcnt) hmax (hlast ▸ hsum')
  · have hcnt' : (s.cnt + 1#9).toNat = s.cnt.toNat + 1 := toNat_count (by omega)
    refine inv_iff.2 ⟨hA', Iff.mpr (invPhase_body hp) ⟨hbusy, hval, hmax, ?_, ?_⟩⟩
    · exact (show (s.cnt + 1#9).toNat < s.rxlen.toNat by omega)
    · rw [countContent_cnt, accByte_cnt, storeRx_cnt, hcnt']
      exact hsum'

/-- A step of a receiving phase keeps the invariant when its byte does (R131, R151, R154). -/
theorem rxStep_inv {f : Byte → State → Except Fault State} {inp : StepIn} {s t : State} (h : Inv s)
    (hf : ∀ b rest, f b (takeByte rest s) = .ok t → Inv t) (hs : rxStep f inp s = .ok t) : Inv t := by
  rcases rxStep_ok.1 hs with ⟨-, rfl⟩ | ⟨-, -, rfl⟩ | ⟨b, rest, -, -, hb⟩
  · exact (inv_iff.1 h).1.finish _ (by decide)
  · exact h
  · exact hf b rest hb

/-! ### The phases of ENCODE -/

theorem calcStep_inv {s t : State} (h : Inv s) (hp : s.phase = .calc) (hs : calcStep s = .ok t) : Inv t := by
  obtain ⟨hA, hP⟩ := inv_iff.1 h
  obtain ⟨hbusy, hmax, hcnt, hsum⟩ := (invPhase_calc hp).1 hP
  obtain ⟨b, hbuf, hread, hcases⟩ := calcStep_ok.1 hs
  have hbuf' : s.cnt.toNat < 256 := hbuf
  have hsumT : Summed txIndex (s.cnt.toNat + 1) (accByte b s) := hsum.accByte hread
  have ha := accByte_range b hA.accRange
  obtain ⟨hm, -, hl, hw, hc, hv⟩ := hA
  rcases hcases with ⟨hlast, rfl⟩ | ⟨hmore, rfl⟩
  · refine inv_iff.2 ⟨⟨hm, ha, hl, hw, hc, hv⟩, Iff.mpr (invPhase_emit rfl) ⟨hbusy, hmax, ?_, hlast ▸ hsumT⟩⟩
    simp [Params.overhead]
  · have hcntT : (countContent (accByte b s)).cnt.toNat = s.cnt.toNat + 1 :=
      toNat_count (n := s.cnt) (by omega)
    refine inv_iff.2 ⟨⟨hm, ha, hl, hw, hc, hv⟩, Iff.mpr (invPhase_calc hp) ⟨hbusy, hmax, ?_, hcntT ▸ hsumT⟩⟩
    rw [hcntT]
    exact Nat.lt_of_le_of_ne hcnt hmore

theorem emitStep_inv {s t : State} (h : Inv s) (hp : s.phase = .emit) (hs : emitStep s = .ok t) : Inv t := by
  obtain ⟨hA, hP⟩ := inv_iff.1 h
  obtain ⟨hbusy, hmax, heidx, hsum⟩ := (invPhase_emit hp).1 hP
  obtain ⟨hm, ha, hl, hw, hc, hv⟩ := hA
  obtain ⟨b, -, ⟨-, rfl⟩ | ⟨hmore, rfl⟩⟩ := emitStep_ok.1 hs
  · exact InvAlways.finish (s := countSent (txEmit b s)) ⟨hm, ha, hl, hw, hc, hv⟩ _ ok_raised
  · have heidxT : (countSent (txEmit b s)).eidx.toNat = s.eidx.toNat + 1 := by
      refine toNat_count (n := s.eidx) ?_
      have := len_range s.params
      simp only [Params.overhead, Config.maxContent] at heidx hmax
      omega
    refine inv_iff.2 ⟨⟨hm, ha, hl, hw, hc, hv⟩, Iff.mpr (invPhase_emit hp) ⟨hbusy, hmax, ?_, hsum⟩⟩
    rw [heidxT]
    exact Nat.lt_of_le_of_ne heidx hmore

/-- The sequencer's action keeps the invariant, phase by phase. -/
theorem phaseStep_inv {inp : StepIn} {s t : State} (h : Inv s) (hs : phaseStep inp s = .ok t) : Inv t := by
  cases hp : s.phase <;> simp only [phaseStep, hp] at hs
  case idle =>
    cases hs
    exact h
  case sync =>
    refine rxStep_inv h (fun b rest hb => ?_) hs
    cases hb
    exact syncByte_inv b (h.takeByte rest) hp
  case hdr =>
    refine rxStep_inv h (fun b rest hb => ?_) hs
    cases hb
    exact hdrByte_inv b (h.takeByte rest) hp
  case body => exact rxStep_inv h (fun b rest hb => bodyByte_inv (h.takeByte rest) hp hb) hs
  case emit => exact emitStep_inv h hp hs
  -- CALC is the phase left; its constructor is spelled like a keyword.
  case _ => exact calcStep_inv h hp hs

/-! ### The commands -/

theorem decodeStart_inv {s : State} (h : Inv s) : Inv (decodeStart s) :=
  inv_iff.2 ⟨⟨h.memWf, zero_accRange, Nat.two_pow_pos _, fun _ => rfl, ok_raised, fun hv => by cases hv⟩,
    Iff.mpr (invPhase_sync rfl) ⟨⟨rfl, rfl⟩, rfl, rfl, rfl⟩⟩

/-- The three ends of ENCODE's start (R180). -/
theorem encodeStart_cases (s : State) :
    (Config.maxContent < s.txLen.toNat ∧ encodeStart s = finish .contentLengthExceeded s) ∨
    (s.txLen.toNat ≤ Config.maxContent ∧ encodeStart s =
      { accClear s with
        cnt := 0#9, eidx := 0#9, done := false, code := .ok
        phase := if s.txLen = 0#32 then .emit else .calc }) := by
  unfold encodeStart
  split
  · exact .inl ⟨by assumption, rfl⟩
  · exact .inr ⟨by omega, rfl⟩

theorem encodeStart_inv {s : State} (h : Inv s) : Inv (encodeStart s) := by
  have hA := (inv_iff.1 h).1
  rcases encodeStart_cases s with ⟨-, e⟩ | ⟨hmax, e⟩ <;> rw [e]
  · exact hA.finish _ (by decide)
  · refine inv_iff.2 ⟨⟨h.memWf, zero_accRange, h.rxlenRange, h.emptyWindow, ok_raised, h.validFrame⟩, ?_⟩
    by_cases h0 : s.txLen = 0#32
    · refine Iff.mpr (invPhase_emit (if_pos h0)) ⟨⟨rfl, rfl⟩, hmax, by simp [Params.overhead], ?_⟩
      simpa [h0] using summed_nil rfl rfl
    · refine Iff.mpr (invPhase_calc (if_neg h0)) ⟨⟨rfl, rfl⟩, hmax, ?_, summed_nil rfl rfl⟩
      exact Nat.pos_of_ne_zero fun hz => h0 (BitVec.eq_of_toNat_eq (by simpa using hz))

theorem dispatch_inv (w : Word) {s : State} (h : Inv s) : Inv (dispatch w s) := by
  have hA := (inv_iff.1 h).1
  rcases dispatch_cases w s with ⟨-, e⟩ | ⟨-, e⟩ | ⟨-, e⟩ | ⟨-, e⟩ | ⟨-, e⟩ | ⟨-, e⟩ <;> rw [e]
  · exact h
  · exact decodeStart_inv h
  · exact encodeStart_inv h
  · exact InvAlways.finish (s := accClear s)
      ⟨h.memWf, zero_accRange, h.rxlenRange, h.emptyWindow, h.codeRaised, h.validFrame⟩ _ (by decide)
  · exact InvAlways.finish (s := accByte (cmdArg w) s)
      ⟨h.memWf, accByte_range _ h.accRange, h.rxlenRange, h.emptyWindow, h.codeRaised, h.validFrame⟩ _ (by decide)
  · exact hA.finish _ (by decide)

/-! ### How the sequencer goes on and ends -/

/-- The command that runs goes on: DONE and RX_VALID stay, and the phase stays or is the next one (R40). -/
def GoesOn (s u : State) : Prop :=
  u.done = s.done ∧ u.rxValid = s.rxValid ∧
    (u.phase = s.phase ∨ (s.phase = .sync ∧ u.phase = .hdr) ∨ (s.phase = .hdr ∧ u.phase = .body) ∨
      (s.phase = .calc ∧ u.phase = .emit))

/-- The command that runs ends: DONE is set, and RX_VALID stays or is set with a checked frame (R155, R221). -/
def Ends (s u : State) : Prop :=
  s.phase ≠ .idle ∧ u.phase = .idle ∧ u.done = true ∧
    (u.rxValid = s.rxValid ∨ (s.phase = .body ∧ u.rxValid = true ∧ u.code = .ok ∧ u.acc = u.rxCsum))

@[simp] theorem placeHeaderByte_done (k : Nat) (b : Byte) (s : State) : (placeHeaderByte k b s).done = s.done := by
  rw [placeHeaderByte_eq]

@[simp] theorem placeHeaderByte_rxValid (k : Nat) (b : Byte) (s : State) :
    (placeHeaderByte k b s).rxValid = s.rxValid := by
  rw [placeHeaderByte_eq]

theorem syncByte_goesOn (b : Byte) {s : State} (hp : s.phase = .sync) : GoesOn s (syncByte b s) := by
  rcases syncByte_cases b s with ⟨-, -, -, e⟩ | ⟨-, e⟩ <;> rw [e]
  · exact ⟨rfl, rfl, .inr (.inl ⟨hp, rfl⟩)⟩
  · exact ⟨rfl, rfl, .inl rfl⟩

theorem hdrByte_goesOn_or_ends (b : Byte) {s : State} (hp : s.phase = .hdr) :
    GoesOn s (hdrByte b s) ∨ Ends s (hdrByte b s) := by
  rcases hdrByte_cases b s with ⟨-, e⟩ | ⟨-, e⟩ <;> rw [e]
  · rcases checkLength_cases (placeHeaderByte s.hidx.toNat b s) with ⟨-, e⟩ | ⟨-, e⟩ | ⟨-, -, e⟩ <;> rw [e]
    · exact .inr (by simp [Ends, hp])
    · exact .inr (by simp [Ends, hp])
    · exact .inl (by simp [GoesOn, hp])
  · exact .inl (by simp [GoesOn])

theorem bodyByte_goesOn_or_ends {b : Byte} {s u : State} (hp : s.phase = .body) (hs : bodyByte b s = .ok u) :
    GoesOn s u ∨ Ends s u := by
  obtain ⟨-, ⟨-, rfl⟩ | ⟨-, rfl⟩⟩ := bodyByte_ok.1 hs
  · rcases compareChecksum_cases (countContent (accByte b (storeRx s.cnt.toNat b s))) with ⟨heq, e⟩ | ⟨-, e⟩ <;> rw [e]
    · exact .inr ⟨by simp [hp], rfl, rfl, .inr ⟨hp, rfl, rfl, heq⟩⟩
    · exact .inr (by simp [Ends, hp])
  · exact .inl (by simp [GoesOn])

theorem calcStep_goesOn {s u : State} (hp : s.phase = .calc) (hs : calcStep s = .ok u) : GoesOn s u := by
  obtain ⟨b, -, -, ⟨-, rfl⟩ | ⟨-, rfl⟩⟩ := calcStep_ok.1 hs
  · exact ⟨rfl, rfl, .inr (.inr (.inr ⟨hp, rfl⟩))⟩
  · exact ⟨rfl, rfl, .inl rfl⟩

theorem emitStep_goesOn_or_ends {s u : State} (hp : s.phase = .emit) (hs : emitStep s = .ok u) :
    GoesOn s u ∨ Ends s u := by
  obtain ⟨b, -, ⟨-, rfl⟩ | ⟨-, rfl⟩⟩ := emitStep_ok.1 hs
  · exact .inr ⟨by simp [hp], rfl, rfl, .inl rfl⟩
  · exact .inl ⟨rfl, rfl, .inl rfl⟩

/-- A step of a receiving phase ends with the deadline, waits, or does what its byte does. -/
theorem rxStep_goesOn_or_ends {f : Byte → State → Except Fault State} {inp : StepIn} {s u : State}
    (hp : s.phase ≠ .idle) (hf : ∀ b rest, f b (takeByte rest s) = .ok u → GoesOn s u ∨ Ends s u)
    (hs : rxStep f inp s = .ok u) : GoesOn s u ∨ Ends s u := by
  rcases rxStep_ok.1 hs with ⟨-, rfl⟩ | ⟨-, -, rfl⟩ | ⟨b, rest, -, -, hb⟩
  · exact .inr ⟨hp, rfl, rfl, .inl rfl⟩
  · exact .inl ⟨rfl, rfl, .inl rfl⟩
  · exact hf b rest hb

/-- In every phase the sequencer's action lets the command go on or ends it. -/
theorem phaseStep_goesOn_or_ends {inp : StepIn} {s u : State} (hs : phaseStep inp s = .ok u) :
    GoesOn s u ∨ Ends s u := by
  cases hp : s.phase <;> simp only [phaseStep, hp] at hs
  case idle =>
    cases hs
    exact .inl ⟨rfl, rfl, .inl rfl⟩
  case sync =>
    refine rxStep_goesOn_or_ends (by simp [hp]) (fun b rest hb => ?_) hs
    cases hb
    exact .inl (syncByte_goesOn b (s := takeByte rest s) hp)
  case hdr =>
    refine rxStep_goesOn_or_ends (by simp [hp]) (fun b rest hb => ?_) hs
    cases hb
    exact hdrByte_goesOn_or_ends b (s := takeByte rest s) hp
  case body =>
    exact rxStep_goesOn_or_ends (by simp [hp])
      (fun b rest hb => bodyByte_goesOn_or_ends (s := takeByte rest s) hp hb) hs
  case emit => exact emitStep_goesOn_or_ends hp hs
  -- CALC is the phase left; its constructor is spelled like a keyword.
  case _ => exact .inl (calcStep_goesOn hp hs)

/-- The sequencer's action does not enter ENCODE's phases from outside them: only a command does (R180, R201). -/
theorem phaseStep_encBusy {inp : StepIn} {s u : State} (hs : phaseStep inp s = .ok u) (he : s.encBusy = false) :
    u.encBusy = false := by
  rcases phaseStep_goesOn_or_ends hs with ⟨-, -, hph | ⟨-, hph⟩ | ⟨-, hph⟩ | ⟨hcalc, -⟩⟩ | ⟨-, hph, -⟩
  · simpa [State.encBusy, hph] using he
  · simp [State.encBusy, hph]
  · simp [State.encBusy, hph]
  · simp [State.encBusy, hcalc] at he
  · simp [State.encBusy, hph]

/-! ### What an access adds to the sequencer's action -/

/-- t is u but for what an access may write after the sequencer's action: OVR, the TX registers, the buffers and the
read data (R201 to R203, R207). -/
def AccessFrame (u t : State) : Prop :=
  ∃ ovr txMeta txType txLen mem regRdata, t =
    { u with ovr := ovr, txMeta := txMeta, txType := txType, txLen := txLen, mem := mem, regRdata := regRdata }

theorem accessFrame_refl (u : State) : AccessFrame u u := ⟨_, _, _, _, _, _, rfl⟩

theorem accessFrame_setOvr (u : State) : AccessFrame u (setOvr u) := ⟨_, _, _, _, _, _, rfl⟩

theorem accessFrame_read (u : State) (v : Word) : AccessFrame u { u with regRdata := v } := ⟨_, _, _, _, _, _, rfl⟩

theorem accessFrame_hostWrite (e : Bool) (i : Index) (w : Word) (u : State) : AccessFrame u (hostWrite e i w u) :=
  ⟨_, _, _, _, _, _, hostWrite_eq e i w u⟩

/-- An access next to a phase that reads no TX register keeps the invariant if it keeps the canonical form and the
entries of RXBUF. -/
theorem Inv.access {u t : State} (h : Inv u) (hf : AccessFrame u t) (he : u.encBusy = false) (hwf : t.mem.wf = true)
    (hrx : ∀ c, Holds u.mem rxIndex c → c.length ≤ Config.maxContent → Holds t.mem rxIndex c) : Inv t := by
  obtain ⟨ovr, txMeta, txType, txLen, mem, regRdata, rfl⟩ := hf
  obtain ⟨hA, hP⟩ := inv_iff.1 h
  refine inv_iff.2 ⟨⟨hwf, hA.accRange, hA.rxlenRange, hA.emptyWindow, hA.codeRaised, fun hv => ?_⟩, ?_⟩
  · obtain ⟨c, hlen, hpos, hmax, hold, hsum⟩ := hA.validFrame hv
    exact ⟨c, hlen, hpos, hmax, hrx c hold hmax, hsum⟩
  · cases hp : u.phase <;> simp only [InvPhase, hp] at hP ⊢
    case sync | hdr => exact hP
    case body =>
      obtain ⟨hbusy, hval, hmax, hcnt, c, hlen, hold, hacc⟩ := hP
      exact ⟨hbusy, hval, hmax, hcnt, c, hlen, hrx c hold (by omega), hacc⟩
    all_goals simp [State.encBusy, hp] at he

/-- An access that changes neither TX_LEN nor the buffers keeps the invariant in every phase. -/
theorem Inv.accessBusy {u t : State} (h : Inv u) (hf : AccessFrame u t) (hlen : t.txLen = u.txLen)
    (hmem : t.mem = u.mem) : Inv t := by
  obtain ⟨ovr, txMeta, txType, txLen, mem, regRdata, rfl⟩ := hf
  obtain rfl : txLen = u.txLen := hlen
  obtain rfl : mem = u.mem := hmem
  exact h.outside ..

/-- A host write keeps the invariant: during ENCODE it is dropped, and else it leaves RXBUF alone (R203, R207). -/
theorem hostWrite_inv {e : Bool} (i : Index) (w : Word) {u : State} (h : Inv u)
    (he : e = false → u.encBusy = false) : Inv (hostWrite e i w u) := by
  have hf := accessFrame_hostWrite e i w u
  cases e with
  | true =>
    obtain ⟨-, -, hlen⟩ := hostWrite_busy_tx i w u
    rcases hostWrite_mem true i w u with hmem | ⟨hfalse, -, -⟩
    · exact h.accessBusy hf hlen hmem
    · cases hfalse
  | false =>
    rcases hostWrite_mem false i w u with hmem | ⟨-, hi, hmem⟩
    · exact h.access hf (he rfl) (hmem ▸ h.memWf) fun c hold _ => hmem ▸ hold
    · refine h.access hf (he rfl) ?_ fun c hold _ => ?_ <;> rw [hmem]
      · exact Memory.wf_write _ _ _ (by simp only [txIndex]; omega) h.memWf
      · exact holds_write hold _ fun k _ => by simp only [rxIndex, txIndex]; omega

/-- Settles O35: the invariant at each shape of a next state (`step_next`): reset, a started command, or the sequencer's
action and the access beside it. -/
theorem stepKeepsInvariant : Obligations.StepKeepsInvariant := by
  unfold Obligations.StepKeepsInvariant
  intro s t h hs
  rcases step_next hs with ⟨-, rfl⟩ | ⟨-, ⟨-, w, -, rfl⟩ | ⟨u, hu, haccess⟩⟩
  · exact resetStep_inv s
  · exact dispatch_inv w h.beginStep
  · have hinv : Inv u := phaseStep_inv h.beginStep hu
    rcases haccess with ⟨-, rfl⟩ | ⟨_, v, -, rfl⟩ | ⟨a, w, -, rfl⟩ | rfl
    · exact hinv.setOvr
    · exact hinv.outside ..
    · exact hostWrite_inv a w hinv (phaseStep_encBusy (s := beginStep s) hu)
    · exact hinv

/-- Settles O34: `Inv` at the reset values of R49. -/
theorem resetMeetsInvariant : Obligations.ResetMeetsInvariant := by
  unfold Obligations.ResetMeetsInvariant
  exact ⟨resetOf_inv, rfl, resetOf_inv Params.default⟩

/-! ### The streams and their ports -/

/-- The two byte streams and the ports that drive them stay (R21, R22). -/
def SamePorts (s u : State) : Prop :=
  u.rxTake = s.rxTake ∧ u.chan = s.chan ∧ u.txValid = s.txValid ∧ u.txData = s.txData ∧ u.sent = s.sent

theorem samePorts_refl (s : State) : SamePorts s s := ⟨rfl, rfl, rfl, rfl, rfl⟩

theorem SamePorts.trans {s t u : State} (h : SamePorts s t) (h' : SamePorts t u) : SamePorts s u := by
  obtain ⟨h1, h2, h3, h4, h5⟩ := h
  obtain ⟨h1', h2', h3', h4', h5'⟩ := h'
  exact ⟨h1'.trans h1, h2'.trans h2, h3'.trans h3, h4'.trans h4, h5'.trans h5⟩

theorem AccessFrame.samePorts {u t : State} (h : AccessFrame u t) : SamePorts u t := by
  obtain ⟨_, _, _, _, _, _, rfl⟩ := h
  exact ⟨rfl, rfl, rfl, rfl, rfl⟩

theorem syncByte_samePorts (b : Byte) (s : State) : SamePorts s (syncByte b s) := by
  rcases syncByte_cases b s with ⟨-, -, -, e⟩ | ⟨-, e⟩ <;> rw [e] <;> exact ⟨rfl, rfl, rfl, rfl, rfl⟩

theorem placeHeaderByte_samePorts (k : Nat) (b : Byte) (s : State) : SamePorts s (placeHeaderByte k b s) := by
  rw [placeHeaderByte_eq]
  exact ⟨rfl, rfl, rfl, rfl, rfl⟩

theorem checkLength_samePorts (s : State) : SamePorts s (checkLength s) := by
  rcases checkLength_cases s with ⟨-, e⟩ | ⟨-, e⟩ | ⟨-, -, e⟩ <;> rw [e] <;> exact ⟨rfl, rfl, rfl, rfl, rfl⟩

theorem hdrByte_samePorts (b : Byte) (s : State) : SamePorts s (hdrByte b s) := by
  have hplace := placeHeaderByte_samePorts s.hidx.toNat b s
  rcases hdrByte_cases b s with ⟨-, e⟩ | ⟨-, e⟩ <;> rw [e]
  · exact hplace.trans (checkLength_samePorts _)
  · exact hplace

theorem compareChecksum_samePorts (s : State) : SamePorts s (compareChecksum s) := by
  rcases compareChecksum_cases s with ⟨-, e⟩ | ⟨-, e⟩ <;> rw [e] <;> exact ⟨rfl, rfl, rfl, rfl, rfl⟩

theorem bodyByte_samePorts {b : Byte} {s u : State} (h : bodyByte b s = .ok u) : SamePorts s u := by
  obtain ⟨-, ⟨-, rfl⟩ | ⟨-, rfl⟩⟩ := bodyByte_ok.1 h
  · exact compareChecksum_samePorts (countContent (accByte b (storeRx s.cnt.toNat b s)))
  · exact ⟨rfl, rfl, rfl, rfl, rfl⟩

/-- The sequencer takes a byte: a DECODE runs, the deadline has not passed and a byte heads the channel (R21, R157). -/
def Takes (inp : StepIn) (s : State) : Prop := s.decoding = true ∧ inp.expired = false ∧ s.chan ≠ []

/-- A receiving step takes the head of the channel, or leaves the streams alone. -/
theorem rxStep_ports {f : Byte → State → Except Fault State} {inp : StepIn} {s u : State} (hd : s.decoding = true)
    (hf : ∀ b rest, f b (takeByte rest s) = .ok u → SamePorts (takeByte rest s) u) (hs : rxStep f inp s = .ok u) :
    (Takes inp s ∧ SamePorts (takeByte (s.chan.drop 1) s) u) ∨ (¬ Takes inp s ∧ SamePorts s u) := by
  rcases rxStep_ok.1 hs with ⟨he, rfl⟩ | ⟨-, hc, rfl⟩ | ⟨b, rest, he, hc, hb⟩
  · exact .inr ⟨fun ⟨_, hne, _⟩ => by simp [he] at hne, rfl, rfl, rfl, rfl, rfl⟩
  · exact .inr ⟨fun ⟨_, _, hne⟩ => hne hc, samePorts_refl _⟩
  · refine .inl ⟨⟨hd, he, by simp [hc]⟩, ?_⟩
    rw [hc]
    exact hf b rest hb

/-- What the sequencer does with the streams in a step: a DECODE takes a byte, EMIT sends one, or both stay. -/
theorem phaseStep_ports {inp : StepIn} {s u : State} (hs : phaseStep inp s = .ok u) :
    (Takes inp s ∧ SamePorts (takeByte (s.chan.drop 1) s) u) ∨
    (s.phase = .emit ∧ ∃ b, SamePorts (txEmit b s) u) ∨
    (¬ Takes inp s ∧ s.phase ≠ .emit ∧ SamePorts s u) := by
  have receive : s.phase ≠ .emit →
      (Takes inp s ∧ SamePorts (takeByte (s.chan.drop 1) s) u) ∨ (¬ Takes inp s ∧ SamePorts s u) →
      (Takes inp s ∧ SamePorts (takeByte (s.chan.drop 1) s) u) ∨
      (s.phase = .emit ∧ ∃ b, SamePorts (txEmit b s) u) ∨ (¬ Takes inp s ∧ s.phase ≠ .emit ∧ SamePorts s u) :=
    fun hne h => h.imp_right fun ⟨hnot, hsame⟩ => .inr ⟨hnot, hne, hsame⟩
  cases hp : s.phase <;> simp only [phaseStep, hp] at hs
  case idle =>
    cases hs
    exact .inr (.inr ⟨fun ⟨hd, _⟩ => by simp [State.decoding, hp] at hd, by simp, samePorts_refl _⟩)
  case sync =>
    rw [← hp]
    refine receive (by simp [hp]) (rxStep_ports (by simp [State.decoding, hp]) (fun b rest hb => ?_) hs)
    cases hb
    exact syncByte_samePorts b _
  case hdr =>
    rw [← hp]
    refine receive (by simp [hp]) (rxStep_ports (by simp [State.decoding, hp]) (fun b rest hb => ?_) hs)
    cases hb
    exact hdrByte_samePorts b _
  case body =>
    rw [← hp]
    exact receive (by simp [hp])
      (rxStep_ports (by simp [State.decoding, hp]) (fun b rest hb => bodyByte_samePorts hb) hs)
  case emit =>
    obtain ⟨b, -, ⟨-, rfl⟩ | ⟨-, rfl⟩⟩ := emitStep_ok.1 hs <;> exact .inr (.inl ⟨rfl, b, rfl, rfl, rfl, rfl, rfl⟩)
  -- CALC is the phase left; its constructor is spelled like a keyword.
  case _ =>
    refine .inr (.inr ⟨fun ⟨hd, _⟩ => by simp [State.decoding, hp] at hd, by simp, ?_⟩)
    obtain ⟨b, -, -, ⟨-, rfl⟩ | ⟨-, rfl⟩⟩ := calcStep_ok.1 hs <;> exact ⟨rfl, rfl, rfl, rfl, rfl⟩

theorem encodeStart_samePorts (s : State) : SamePorts s (encodeStart s) := by
  rcases encodeStart_cases s with ⟨-, e⟩ | ⟨-, e⟩ <;> rw [e] <;> exact ⟨rfl, rfl, rfl, rfl, rfl⟩

theorem dispatch_samePorts (w : Word) (s : State) : SamePorts s (dispatch w s) := by
  rcases dispatch_cases w s with ⟨-, e⟩ | ⟨-, e⟩ | ⟨-, e⟩ | ⟨-, e⟩ | ⟨-, e⟩ | ⟨-, e⟩ <;> rw [e]
  · exact samePorts_refl s
  · exact ⟨rfl, rfl, rfl, rfl, rfl⟩
  · exact encodeStart_samePorts s
  · exact ⟨rfl, rfl, rfl, rfl, rfl⟩
  · exact ⟨rfl, rfl, rfl, rfl, rfl⟩
  · exact ⟨rfl, rfl, rfl, rfl, rfl⟩

/-- The action of a completing step: reset, a command started in IDLE, or the sequencer's with an access beside it. -/
theorem step_action {s t : State} (h : step s = .next t) :
    (s.input.rst = true ∧ t = resetStep s) ∨
    (s.input.rst = false ∧ s.phase = .idle ∧ ∃ w, t = dispatch w (beginStep s)) ∨
    (s.input.rst = false ∧ ∃ u, phaseStep s.input (beginStep s) = .ok u ∧ AccessFrame u t) := by
  rcases step_next h with hreset | ⟨hr, ⟨hp, w, -, ht⟩ | ⟨u, hu, haccess⟩⟩
  · exact .inl hreset
  · exact .inr (.inl ⟨hr, hp, w, ht⟩)
  · refine .inr (.inr ⟨hr, u, hu, ?_⟩)
    rcases haccess with ⟨-, rfl⟩ | ⟨_, v, -, rfl⟩ | ⟨a, w, -, rfl⟩ | rfl
    · exact accessFrame_setOvr u
    · exact accessFrame_read u v
    · exact accessFrame_hostWrite s.encBusy a w u
    · exact accessFrame_refl _

/-- What a completing step does with the streams: it takes the head of the channel, sends a byte, or leaves both as it
finds them, with the ports at R201's first line. -/
theorem step_ports {s t : State} (h : step s = .next t) :
    (s.input.rst = false ∧ Takes s.input (beginStep s) ∧ SamePorts (takeByte (s.arrived.drop 1) (beginStep s)) t) ∨
    (s.input.rst = false ∧ s.phase = .emit ∧ ∃ b, SamePorts (txEmit b (beginStep s)) t) ∨
    ((s.input.rst = true ∨ ¬ Takes s.input (beginStep s) ∧ s.phase ≠ .emit) ∧ SamePorts (beginStep s) t) := by
  rcases step_action h with ⟨hr, rfl⟩ | ⟨hr, hp, w, rfl⟩ | ⟨hr, u, hu, hf⟩
  · exact .inr (.inr ⟨.inl hr, rfl, rfl, rfl, rfl, rfl⟩)
  · refine .inr (.inr ⟨.inr ⟨fun ⟨hd, _⟩ => ?_, by simp [hp]⟩, dispatch_samePorts w _⟩)
    simp [State.decoding, hp] at hd
  · rcases phaseStep_ports hu with ⟨htake, hsame⟩ | ⟨hemit, b, hsame⟩ | ⟨hnot, hne, hsame⟩
    · exact .inl ⟨hr, htake, hsame.trans hf.samePorts⟩
    · exact .inr (.inl ⟨hr, hemit, b, hsame.trans hf.samePorts⟩)
    · exact .inr (.inr ⟨.inr ⟨hnot, hne⟩, hsame.trans hf.samePorts⟩)

theorem takes_not_emit {inp : StepIn} {s : State} (h : Takes inp s) : s.phase ≠ .emit := fun hp => by
  simp [Takes, State.decoding, hp] at h

/-- Settles O37: of the three shapes of `step_ports` only EMIT's sends. -/
theorem transmitPort : Obligations.TransmitPort := by
  unfold Obligations.TransmitPort
  intro s t h
  rcases step_ports h with ⟨-, htake, -, -, hv, hd, hs⟩ | ⟨hr, hp, b, -, -, hv, hd, hs⟩ | ⟨hno, -, -, hv, hd, hs⟩
  · have hne : s.phase ≠ .emit := takes_not_emit (s := beginStep s) htake
    simp [hv, hd, hs, hne]
  · simp [hv, hd, hs, hr, hp]
  · have hne : (s.phase == .emit && !s.input.rst) = false := by
      rcases hno with hr | ⟨-, hne⟩
      · simp [hr]
      · simp [hne]
    simp [hv, hd, hs, hne]

/-- The condition of R21 and R137 as the statement's Boolean. -/
theorem handshake_iff (s : State) :
    (s.decoding && !s.input.rst && !s.input.expired && !s.arrived.isEmpty) = true ↔
      s.input.rst = false ∧ Takes s.input (beginStep s) := by
  have harr : (beginStep s).chan = s.arrived := rfl
  have hdec : (beginStep s).decoding = s.decoding := rfl
  rw [Takes, harr, hdec]
  simp only [Bool.and_eq_true, Bool.not_eq_true', List.isEmpty_eq_false_iff]
  tauto

/-- Settles O38: of the three shapes of `step_ports` only that of a received byte takes the head of the queue. -/
theorem receiveHandshake : Obligations.ReceiveHandshake := by
  unfold Obligations.ReceiveHandshake
  intro s t h
  have keeps : ¬ (s.input.rst = false ∧ Takes s.input (beginStep s)) → t.rxTake = false → t.chan = s.arrived →
      t.rxTake = (s.decoding && !s.input.rst && !s.input.expired && !s.arrived.isEmpty) ∧
      (t.rxTake = true → s.arrived.head? ≠ none ∧ t.chan = s.arrived.drop 1) ∧
      (t.rxTake = false → t.chan = s.arrived) := fun hno ht hc => by
    rw [Bool.eq_false_iff.2 (mt (handshake_iff s).1 hno)]
    simp [ht, hc]
  rcases step_ports h with ⟨hr, htake, ht, hc, -⟩ | ⟨-, hp, b, ht, hc, -⟩ | ⟨hno, ht, hc, -⟩
  · have hhead : s.arrived.head? ≠ none := mt List.head?_eq_none_iff.1 htake.2.2
    have ht' : t.rxTake = true := ht
    rw [(handshake_iff s).2 ⟨hr, htake⟩, ht']
    exact ⟨rfl, fun _ => ⟨hhead, hc⟩, fun hfalse => by cases hfalse⟩
  · exact keeps (fun ⟨_, htake⟩ => takes_not_emit htake hp) ht hc
  · refine keeps (fun ⟨hr, htake⟩ => ?_) ht hc
    rcases hno with hr' | ⟨hno, -⟩
    · simp [hr] at hr'
    · exact hno htake

/-! ### DONE and RX_VALID -/

/-- A command is what its word decodes to (R91). -/
theorem eq_decodeCmd_of_encode {i : Instr} {w : Word} (h : encode i = .cmd w) : i = decodeCmd w := by
  cases i <;> cases h <;> simp [decodeCmd]

/-- The action of a completing instruction: reset, a command started in IDLE, or the sequencer's, on the queue as it is
or with a presented byte, with an access beside it. -/
theorem exec_action {i : Instr} {s t : State} (h : exec i s = .next t) :
    (s.input.rst = true ∧ t = resetStep s) ∨
    (s.phase = .idle ∧ ∃ w, (i = decodeCmd w ∨ i = .hostWr Config.cmdIndex w) ∧ t = dispatch w (beginStep s)) ∨
    (∃ b u, (b = beginStep s ∨ ∃ c, b = present c (beginStep s)) ∧ phaseStep s.input b = .ok u ∧ AccessFrame u t) := by
  rcases exec_next h with hreset | ⟨-, ⟨hp, w, hi, ht⟩ | ⟨u, hu, haccess⟩ | ⟨c, -, hu⟩⟩
  · exact .inl hreset
  · exact .inr (.inl ⟨hp, w, hi.imp_left eq_decodeCmd_of_encode, ht⟩)
  · refine .inr (.inr ⟨_, u, .inl rfl, hu, ?_⟩)
    rcases haccess with ⟨-, -, rfl⟩ | ⟨_, _, v, -, -, rfl⟩ | ⟨a, w, -, -, rfl⟩ | ⟨_, _, _, -, rfl⟩
    · exact accessFrame_setOvr u
    · exact accessFrame_read u v
    · exact accessFrame_hostWrite s.encBusy a w u
    · exact accessFrame_refl _
  · exact .inr (.inr ⟨_, t, .inr ⟨c, rfl⟩, hu, accessFrame_refl t⟩)

/-- The commands that end in their start step (R116, R117, R180, R206). -/
def EndsAtOnce (w : Word) (s : State) : Prop :=
  cmdOp w = 0x3#4 ∨ cmdOp w = 0x4#4 ∨ 0x5 ≤ (cmdOp w).toNat ∨ (cmdOp w = 0x2#4 ∧ 256 < s.txLen.toNat)

/-- What a start step does with DONE and RX_VALID: NOP keeps both, a command that ends at once sets DONE, DECODE clears
both and a legal ENCODE clears DONE (R48, R150, R180, R205). -/
theorem dispatch_flags (w : Word) (s : State) :
    ((dispatch w s).done = s.done ∧ (dispatch w s).rxValid = s.rxValid) ∨
    (EndsAtOnce w s ∧ (dispatch w s).done = true ∧ (dispatch w s).rxValid = s.rxValid ∧
      (dispatch w s).phase = .idle) ∨
    ((dispatch w s).done = false ∧ (dispatch w s).rxValid = false ∧ (dispatch w s).phase = .sync) ∨
    ((dispatch w s).done = false ∧ (dispatch w s).rxValid = s.rxValid ∧ s.txLen.toNat ≤ 256 ∧
      ((dispatch w s).phase = .calc ∨ (dispatch w s).phase = .emit)) := by
  rcases dispatch_cases w s with ⟨-, e⟩ | ⟨-, e⟩ | ⟨hop, e⟩ | ⟨hop, e⟩ | ⟨hop, e⟩ | ⟨hop, e⟩ <;> rw [e]
  · exact .inl ⟨rfl, rfl⟩
  · exact .inr (.inr (.inl ⟨rfl, rfl, rfl⟩))
  · rcases encodeStart_cases s with ⟨hlen, e⟩ | ⟨hlen, e⟩ <;> rw [e]
    · exact .inr (.inl ⟨.inr (.inr (.inr ⟨hop, hlen⟩)), rfl, rfl, rfl⟩)
    · refine .inr (.inr (.inr ⟨rfl, rfl, hlen, ?_⟩))
      by_cases h0 : s.txLen = 0#32 <;> simp [h0]
  · exact .inr (.inl ⟨.inl hop, rfl, rfl, rfl⟩)
  · exact .inr (.inl ⟨.inr (.inl hop), rfl, rfl, rfl⟩)
  · exact .inr (.inl ⟨.inr (.inr (.inl hop)), rfl, rfl, rfl⟩)

/-- How DONE and RX_VALID can change in one step: reset, a start step, or the sequencer that goes on or ends. -/
theorem exec_flags {i : Instr} {s t : State} (h : exec i s = .next t) :
    (s.input.rst = true ∧ t.done = false ∧ t.rxValid = false) ∨
    (s.phase = .idle ∧ ∃ w, (i = decodeCmd w ∨ i = .hostWr Config.cmdIndex w) ∧ t = dispatch w (beginStep s)) ∨
    GoesOn s t ∨ Ends s t := by
  rcases exec_action h with ⟨hr, rfl⟩ | hstart | ⟨b, u, hb, hu, hf⟩
  · exact .inl ⟨hr, rfl, rfl⟩
  · exact .inr (.inl hstart)
  · obtain ⟨_, _, _, _, _, _, rfl⟩ := hf
    have hgo : GoesOn b u ∨ Ends b u := phaseStep_goesOn_or_ends hu
    rcases hb with rfl | ⟨c, rfl⟩ <;> exact .inr (.inr hgo)

/-! A flag that stays neither rises nor falls; one that is set does not fall, and one that is cleared does not rise. -/

theorem not_rise_of_eq {a b : Bool} {P : Prop} (h : b = a) (h0 : a = false) (h1 : b = true) : P := by simp_all

theorem not_fall_of_eq {a b : Bool} {P : Prop} (h : b = a) (h1 : a = true) (h0 : b = false) : P := by simp_all

theorem not_fall_of_set {b : Bool} {P : Prop} (h : b = true) (h0 : b = false) : P := by simp_all

theorem not_rise_of_clear {b : Bool} {P : Prop} (h : b = false) (h1 : b = true) : P := by simp_all

/-- Settles O40: each clause at the shapes of `exec_flags` and, for a start step, of `dispatch_flags`. -/
theorem doneAndRxValidChange : Obligations.DoneAndRxValidChange := by
  unfold Obligations.DoneAndRxValidChange
  intro i s t h
  rcases exec_flags h with ⟨hr, hd, hv⟩ | ⟨hp, w, hi, rfl⟩ | ⟨hd, hv, -⟩ | ⟨hp, hpt, hd, hv⟩
  · exact ⟨fun _ => not_rise_of_clear hd, fun _ _ => .inl hr, fun _ => not_rise_of_clear hv, fun _ _ => .inl hr⟩
  · rcases dispatch_flags w (beginStep s) with ⟨hd, hv⟩ | ⟨hends, hd, hv, hpt⟩ | ⟨hd, hv, hpt⟩ | ⟨hd, hv, hlen, hpt⟩
    · exact ⟨not_rise_of_eq hd, not_fall_of_eq hd, not_rise_of_eq hv, not_fall_of_eq hv⟩
    · exact ⟨fun _ _ => ⟨hpt, fun _ => ⟨w, hi, hends⟩⟩, fun _ => not_fall_of_set hd, not_rise_of_eq hv,
        not_fall_of_eq hv⟩
    · exact ⟨fun _ => not_rise_of_clear hd, fun _ _ => .inr ⟨hp, .inl hpt⟩, fun _ => not_rise_of_clear hv,
        fun _ _ => .inr ⟨hp, hpt⟩⟩
    · exact ⟨fun _ => not_rise_of_clear hd, fun _ _ => .inr ⟨hp, .inr ⟨hlen, hpt⟩⟩, not_rise_of_eq hv,
        not_fall_of_eq hv⟩
  · exact ⟨not_rise_of_eq hd, not_fall_of_eq hd, not_rise_of_eq hv, not_fall_of_eq hv⟩
  · refine ⟨fun _ _ => ⟨hpt, fun hidle => absurd hidle hp⟩, fun _ => not_fall_of_set hd, ?_⟩
    rcases hv with hv | ⟨hbody, hv, hcode, hacc⟩
    · exact ⟨not_rise_of_eq hv, not_fall_of_eq hv⟩
    · exact ⟨fun _ _ => ⟨hbody, hpt, hcode, hacc⟩, fun _ => not_fall_of_set hv⟩

/-! ### The deadline outside DECODE -/

/-- s with the deadline input of its coming step set to e. -/
def setExpired (e : Bool) (s : State) : State :=
  { s with inputs := { s.input with expired := e } :: s.inputs.tail }

/-- Outside DECODE the sequencer does not look at the deadline (R23). -/
theorem phaseStep_expired {inp : StepIn} {s : State} (e : Bool) (h : s.decoding = false) :
    phaseStep { inp with expired := e } s = phaseStep inp s := by
  cases hp : s.phase
  case sync | hdr | body => simp [State.decoding, hp] at h
  all_goals simp only [phaseStep, hp]

/-- A step's action that ignores the deadline makes the step ignore it. -/
theorem inStep_setExpired {act : StepIn → State → Except Fault State} {s : State} (e : Bool)
    (h : act { s.input with expired := e } (beginStep s) = act s.input (beginStep s)) :
    inStep act (setExpired e s) = inStep act s := by
  unfold inStep
  rw [← h]
  rfl

theorem typeTaken_setExpired {s : State} (e : Bool) (h : s.phase ≠ .hdr) :
    typeTaken (setExpired e s) = typeTaken s := by
  have h' : (setExpired e s).phase ≠ .hdr := h
  simp [typeTaken, h, h']

/-- Outside DECODE the instruction of a step does not depend on the deadline. -/
theorem fetch_setExpired {s : State} (e : Bool) (h : s.phase ≠ .hdr) : fetch (setExpired e s) = fetch s := by
  unfold fetch
  rw [typeTaken_setExpired e h]
  rfl

/-- Outside DECODE every instruction ignores the deadline, kind by kind (R23). -/
theorem exec_setExpired {s : State} (e : Bool) (h : s.decoding = false) (i : Instr) :
    exec i (setExpired e s) = exec i s := by
  have hphase : phaseStep { s.input with expired := e } (beginStep s) = phaseStep s.input (beginStep s) :=
    phaseStep_expired e h
  rcases exec_kind i with ⟨w, -, k⟩ | ⟨a, wd, -, k⟩ | ⟨w, -, k⟩ | ⟨a, w, -, -, k⟩ | ⟨we, a, wd, -, k⟩ | ⟨c, -, k⟩ <;>
    rw [k, k] <;> refine inStep_setExpired e ?_
  case inr.inr.inr.inr.inr => exact phaseStep_expired (s := present c (beginStep s)) e h
  all_goals simp only [hphase]

/-- Settles O25: neither the instruction of the step nor what it does depends on the deadline. -/
theorem deadlineIgnoredElsewhere : Obligations.DeadlineIgnoredElsewhere := by
  unfold Obligations.DeadlineIgnoredElsewhere
  intro s e h
  have hne : s.phase ≠ .hdr := fun hp => by simp [State.decoding, hp] at h
  change exec (fetch (setExpired e s)) (setExpired e s) = exec (fetch s) s
  rw [fetch_setExpired e hne, exec_setExpired e h]

/-! ### The computed registers and the reset values -/

/-- STATUS as a number: its fields by their places (R31). -/
theorem status_toNat (s : State) :
    s.status.toNat = s.busy.toNat + 2 * s.done.toNat + 4 * s.rxValid.toNat + 8 * s.ovr.toNat +
      16 * s.code.bits.toNat + 256 * s.phase.bits.toNat := by
  simp only [State.status, toNat_append_add, BitVec.toNat_ofBool]
  simp
  omega

theorem bool_eq_of_toNat_eq : ∀ {a b : Bool}, a.toNat = b.toNat → a = b := by decide

/-- The flags of STATUS are its low four bits (R31). -/
theorem status_flag_bits (s : State) :
    s.status.getLsbD 0 = s.busy ∧ s.status.getLsbD 1 = s.done ∧ s.status.getLsbD 2 = s.rxValid ∧
      s.status.getLsbD 3 = s.ovr := by
  have hbusy := s.busy.toNat_le
  have hdone := s.done.toNat_le
  have hvalid := s.rxValid.toNat_le
  have hovr := s.ovr.toNat_le
  refine ⟨?_, ?_, ?_, ?_⟩ <;> apply bool_eq_of_toNat_eq <;>
    rw [← BitVec.testBit_toNat, Nat.toNat_testBit, status_toNat] <;> omega

/-- CODE and PHASE stand above them, with 0 in the rest of STATUS (R31). -/
theorem status_fields (s : State) :
    s.status.extractLsb' 4 4 = s.code.bits ∧ s.status.extractLsb' 8 3 = s.phase.bits ∧
      s.status.extractLsb' 11 21 = 0#21 := by
  have hbusy := s.busy.toNat_le
  have hdone := s.done.toNat_le
  have hvalid := s.rxValid.toNat_le
  have hovr := s.ovr.toNat_le
  refine ⟨?_, ?_, ?_⟩ <;> apply BitVec.eq_of_toNat_eq <;>
    simp only [BitVec.extractLsb'_toNat, status_toNat, Nat.shiftRight_eq_div_pow, BitVec.toNat_ofNat] <;> omega

/-- BUSY as PHASE shows it (R40). -/
theorem busy_iff_phase_bits (s : State) : s.busy = true ↔ s.phase.bits ≠ 0#3 := by
  cases hp : s.phase <;> simp [State.busy, Phase.bits, hp]

/-- Settles O43: the fields of STATUS in every state, and the numbers of the closed types. -/
theorem statusFields : Obligations.StatusFields := by
  unfold Obligations.StatusFields
  refine ⟨fun s => ?_, by decide⟩
  obtain ⟨hbusy, hdone, hvalid, hovr⟩ := status_flag_bits s
  obtain ⟨hcode, hphase, hrest⟩ := status_fields s
  exact ⟨hbusy, hdone, hvalid, hovr, hcode, hphase, hrest, busy_iff_phase_bits s⟩

/-- Settles O44: the six legal choices of the parameters (R8). -/
theorem configFields : Obligations.ConfigFields := by
  unfold Obligations.ConfigFields
  refine ⟨?_, by decide, by decide⟩
  rintro ⟨lenBytes, byteOrder⟩
  cases lenBytes <;> cases byteOrder <;> decide

theorem resetOf_status (p : Params) : (State.resetOf p).status = 0#32 :=
  BitVec.eq_of_toNat_eq (status_toNat (State.resetOf p))

/-- Settles O1: every field of `State.resetOf` as it is given, and the registers computed from them. -/
theorem resetStateValues : Obligations.ResetStateValues := by
  unfold Obligations.ResetStateValues
  intro p
  exact ⟨rfl, rfl, rfl, rfl, rfl, rfl, rfl, rfl, rfl, rfl, resetOf_status p, rfl, rfl, rfl, rfl, rfl, rfl, rfl, rfl,
    rfl, rfl, rfl, rfl, Memory.read_nil, ⟨rfl, rfl, rfl, rfl⟩, rfl, rfl⟩

end Sys2Proof.Machine
end

section
/-!
PROOFS. The memory family: a read beside the sequencer's action, who writes the TX registers and TXBUF, and which faults
a state of a run can raise.
-/
namespace Sys2Proof.Machine

/-! ### Reads -/

/-- A register reads the same when the step has begun: the value is that of the start of the step (R26, R71). -/
@[simp] theorem hostRead_beginStep (s : State) (a : Index) : hostRead (beginStep s) a = hostRead s a := rfl

/-- Settles O15: a read step is the step without an access, then the read data (`readStep_next`). -/
theorem readHasNoSideEffect : Obligations.ReadHasNoSideEffect := by
  unfold Obligations.ReadHasNoSideEffect
  intro a wd s t hr hskip
  have hphase : phaseStep s.input (beginStep s) = .ok t := by
    rcases skipStep_next.1 hskip with ⟨hrst, -⟩ | ⟨-, hphase⟩
    · exact absurd (hr.symm.trans hrst) Bool.false_ne_true
    · exact hphase
  refine ⟨fun v hv => readStep_next.2 (.inr ⟨hr, v, t, hv, hphase, rfl⟩), fun u hu => ?_⟩
  rcases readStep_next.1 hu with ⟨hrst, -⟩ | ⟨-, v, t', hv, hphase', rfl⟩
  · exact absurd (hr.symm.trans hrst) Bool.false_ne_true
  · obtain rfl : t = t' := Except.ok.inj (hphase.symm.trans hphase')
    exact ⟨v, hv, rfl⟩

/-- From 0x200 on the index map holds no buffer entry (R27). -/
theorem regAt_ne_buffer {i : Index} (h : 0x200 ≤ i.toNat) (k : BitVec 8) :
    regAt i ≠ .txbuf k ∧ regAt i ≠ .rxbuf k := by
  unfold regAt
  rw [if_neg (by omega), if_neg (by omega)]
  split <;> simp

/-- A register of the buffers stands below 0x200 (R27). -/
theorem lt_of_regAt_buffer {i : Index} {k : BitVec 8} (h : regAt i = .txbuf k ∨ regAt i = .rxbuf k) :
    i.toNat < 0x200 := by
  by_contra hge
  obtain ⟨htx, hrx⟩ := regAt_ne_buffer (Nat.le_of_not_lt hge) k
  exact h.elim htx hrx

theorem readBuffer_error {s : State} {a : Index} {f : Fault} :
    readBuffer s a = .error f ↔ s.mem.read a.toNat = none ∧ f = .readNeverWritten a := by
  unfold readBuffer
  cases s.mem.read a.toNat <;> simp [eq_comm]

/-- A read faults at a never-written buffer entry only (R202, R251). -/
theorem hostRead_error {s : State} {a : Index} {f : Fault} (h : hostRead s a = .error f) :
    a.toNat < 0x200 ∧ s.mem.read a.toNat = none ∧ f = .readNeverWritten a := by
  unfold hostRead at h
  split at h
  case h_1 k hk => exact ⟨lt_of_regAt_buffer (.inl hk), readBuffer_error.1 h⟩
  case h_2 k hk => exact ⟨lt_of_regAt_buffer (.inr hk), readBuffer_error.1 h⟩
  all_goals cases h

/-! ### The writers of the TX registers and of TXBUF -/

/-- What ENCODE sends is the same in both states: the TX registers and the entries of TXBUF (R28, R34 to R36). -/
def SameTxState (s t : State) : Prop := SameTx s t ∧ ∀ a, a < 0x100 → t.mem.read a = s.mem.read a

theorem sameTxState_refl (s : State) : SameTxState s s := ⟨⟨rfl, rfl, rfl⟩, fun _ _ => rfl⟩

theorem SameTxState.trans {s t u : State} (h : SameTxState s t) (h' : SameTxState t u) : SameTxState s u := by
  obtain ⟨⟨hmeta, htype, hlen⟩, hmem⟩ := h
  obtain ⟨⟨hmeta', htype', hlen'⟩, hmem'⟩ := h'
  exact ⟨⟨hmeta'.trans hmeta, htype'.trans htype, hlen'.trans hlen⟩, fun a ha => (hmem' a ha).trans (hmem a ha)⟩

theorem phaseStep_sameTxState {inp : StepIn} {s u : State} (h : phaseStep inp s = .ok u) : SameTxState s u := by
  obtain ⟨-, -, hmeta, htype, hlen, -, -, hmem⟩ := phaseStep_frame h
  exact ⟨⟨hmeta, htype, hlen⟩, hmem⟩

/-- No command writes what ENCODE sends, ENCODE itself included (R73). -/
theorem dispatch_sameTxState (w : Word) (s : State) : SameTxState s (dispatch w s) := by
  rcases dispatch_cases w s with ⟨-, e⟩ | ⟨-, e⟩ | ⟨-, e⟩ | ⟨-, e⟩ | ⟨-, e⟩ | ⟨-, e⟩ <;> rw [e]
  case inr.inr.inl => rcases encodeStart_cases s with ⟨-, e⟩ | ⟨-, e⟩ <;> rw [e] <;> exact sameTxState_refl s
  all_goals exact sameTxState_refl s

/-- The indices of TXBUF, TX_META, TX_TYPE and TX_LEN (R27). -/
def IsTxIndex (a : Index) : Prop := a.toNat < 0x100 ∨ a = 0x205#12 ∨ a = 0x206#12 ∨ a = 0x207#12

/-- The registers at those indices. -/
def Reg.isTx : Reg → Bool
  | .txbuf _ | .txMeta | .txType | .txLen => true
  | _ => false

theorem isTxIndex_of_isTx {a : Index} (h : (regAt a).isTx = true) : IsTxIndex a := by
  rcases regAt_cases a with ⟨hlt, -⟩ | ⟨-, -, e⟩ | ⟨hge, hlt⟩ | ⟨-, e⟩
  · exact .inl hlt
  · simp [e, Reg.isTx] at h
  · obtain ⟨n, hn⟩ : ∃ n, a.toNat = n := ⟨_, rfl⟩
    obtain rfl : a = BitVec.ofNat 12 n := by simp [← hn]
    rw [hn] at hge hlt
    unfold IsTxIndex
    interval_cases n <;> revert h <;> decide
  · simp [e, Reg.isTx] at h

/-- A host write at any other register leaves what ENCODE sends as it is (R203). -/
theorem hostWrite_sameTxState_of_not_isTx {a : Index} (h : (regAt a).isTx = false) (e : Bool) (w : Word) (u : State) :
    SameTxState u (hostWrite e a w u) := by
  cases hreg : regAt a <;> simp only [hostWrite, hreg]
  case txbuf | txMeta | txType | txLen => simp [hreg, Reg.isTx] at h
  case status =>
    unfold writeStatus
    split <;> exact sameTxState_refl u
  all_goals exact sameTxState_refl u

/-- While ENCODE runs every host write leaves what it sends as it is (R207). -/
theorem hostWrite_sameTxState_of_busy (a : Index) (w : Word) (u : State) : SameTxState u (hostWrite true a w u) := by
  rcases hostWrite_mem true a w u with hmem | ⟨hfalse, -, -⟩
  · exact ⟨hostWrite_busy_tx a w u, fun k _ => by rw [hmem]⟩
  · cases hfalse

/-- A host write changes what ENCODE sends only at the TX indices, and only while no ENCODE runs (R203, R207). -/
theorem hostWrite_sameTxState (e : Bool) (a : Index) (w : Word) (u : State) :
    SameTxState u (hostWrite e a w u) ∨ (e = false ∧ IsTxIndex a) := by
  cases e with
  | true => exact .inl (hostWrite_sameTxState_of_busy a w u)
  | false =>
    cases hreg : (regAt a).isTx with
    | true => exact .inr ⟨rfl, isTxIndex_of_isTx hreg⟩
    | false => exact .inl (hostWrite_sameTxState_of_not_isTx hreg false w u)

/-- Settles O41: of the shapes of a next state (`exec_next`) only reset and a host write touch what ENCODE sends. -/
theorem txStateChangesOnlyByHostWrite : Obligations.TxStateChangesOnlyByHostWrite := by
  unfold Obligations.TxStateChangesOnlyByHostWrite
  intro i s t h
  rcases exec_next h with ⟨hrst, -⟩ | ⟨-, ⟨-, w, -, rfl⟩ | ⟨u, hu, haccess⟩ | ⟨c, -, hu⟩⟩
  · exact .inr (.inl hrst)
  · exact .inl (dispatch_sameTxState w (beginStep s))
  · have hsame : SameTxState s u := phaseStep_sameTxState (s := beginStep s) hu
    rcases haccess with ⟨-, -, rfl⟩ | ⟨_, _, v, -, -, rfl⟩ | ⟨a, w, -, hi, rfl⟩ | ⟨_, _, _, -, rfl⟩
    · exact .inl hsame
    · exact .inl hsame
    · rcases hostWrite_sameTxState s.encBusy a w u with hwrite | ⟨he, ha⟩
      · exact .inl (hsame.trans hwrite)
      · exact .inr (.inr ⟨he, a, w, hi, ha⟩)
    · exact .inl hsame
  · exact .inl (phaseStep_sameTxState (s := present c (beginStep s)) hu)

/-! ### Faults -/

theorem exec_ne_refused (i : Instr) (s : State) (r : Refusal) : exec i s ≠ .refused r := by
  rcases exec_kind i with ⟨w, -, e⟩ | ⟨a, wd, -, e⟩ | ⟨w, -, e⟩ | ⟨a, w, -, -, e⟩ | ⟨we, a, wd, -, e⟩ | ⟨c, -, e⟩ <;>
    rw [e] <;> exact inStep_ne_refused _ s r

/-- A command faults where the sequencer's action does (R204, R207). -/
theorem commandStep_fault {start : State → State} {s : State} {f : Fault} (h : commandStep start s = .fault f) :
    phaseStep s.input (beginStep s) = .error f := by
  obtain ⟨-, h⟩ := inStep_fault.1 h
  split at h
  · cases h
  · split at h
    · cases h
      assumption
    · cases h

/-- A read step faults where its read or the sequencer's action does (R201). -/
theorem readStep_fault {a : Index} {s : State} {f : Fault} (h : readStep a s = .fault f) :
    hostRead s a = .error f ∨ phaseStep s.input (beginStep s) = .error f := by
  obtain ⟨-, h⟩ := inStep_fault.1 h
  rw [hostRead_beginStep] at h
  split at h
  · cases h
    exact .inl (by assumption)
  · split at h
    · cases h
      exact .inr (by assumption)
    · cases h

/-- A write step faults where the sequencer's action does (R201). -/
theorem writeStep_fault {a : Index} {w : Word} {s : State} {f : Fault} (h : writeStep a w s = .fault f) :
    phaseStep s.input (beginStep s) = .error f := by
  obtain ⟨-, h⟩ := inStep_fault.1 h
  split at h
  · cases h
    assumption
  · cases h

/-- An instruction faults in its read, or in the sequencer's action on the queue as it is or with a presented byte. -/
theorem exec_fault {i : Instr} {s : State} {f : Fault} (h : exec i s = .fault f) :
    (∃ a wd, i = .hostRd a wd ∧ hostRead s a = .error f) ∨
    (∃ b, (b = beginStep s ∨ ∃ c, b = present c (beginStep s)) ∧ phaseStep s.input b = .error f) := by
  rcases exec_kind i with ⟨w, -, e⟩ | ⟨a, wd, hi, e⟩ | ⟨w, -, e⟩ | ⟨a, w, -, -, e⟩ | ⟨we, a, wd, -, e⟩ | ⟨c, -, e⟩ <;>
    rw [e] at h
  · exact .inr ⟨_, .inl rfl, commandStep_fault h⟩
  · rcases readStep_fault h with hread | hphase
    · exact .inl ⟨a, wd, hi, hread⟩
    · exact .inr ⟨_, .inl rfl, hphase⟩
  · exact .inr ⟨_, .inl rfl, commandStep_fault h⟩
  · exact .inr ⟨_, .inl rfl, writeStep_fault h⟩
  · exact .inr ⟨_, .inl rfl, (inStep_fault.1 h).2⟩
  · exact .inr ⟨_, .inr ⟨c, rfl⟩, (inStep_fault.1 h).2⟩

theorem calcStep_error {s : State} {f : Fault} (h : calcStep s = .error f) : readTx s s.cnt.toNat = .error f := by
  unfold calcStep at h
  split at h
  · cases h
    assumption
  · split at h <;> cases h

/-- Only a content byte of the frame can fault (R184). -/
theorem frameByte_error {s : State} {e : Nat} {f : Fault} (h : frameByte s e = .error f) :
    8 + s.params.len < e ∧ readTx s (e - 9 - s.params.len) = .error f := by
  unfold frameByte at h
  iterate 7
    split at h
    · cases h
  exact ⟨by omega, h⟩

theorem emitStep_error {s : State} {f : Fault} (h : emitStep s = .error f) :
    8 + s.params.len < s.eidx.toNat ∧ readTx s (s.eidx.toNat - 9 - s.params.len) = .error f := by
  unfold emitStep at h
  split at h
  · cases h
    exact frameByte_error (by assumption)
  · split at h <;> cases h

theorem Inv.present {s : State} (h : Inv s) (c : Byte) : Inv (present c s) := h.outside ..

/-- A BODY step of a run does not fault: its content index is below the received length (R62, R153). -/
theorem Inv.bodyStep_ne_error {inp : StepIn} {s : State} {f : Fault} (h : Inv s) (hp : s.phase = .body) :
    bodyStep inp s ≠ .error f := fun he => by
  obtain ⟨b, rest, -, -, hb⟩ := rxStep_error.1 he
  obtain ⟨hge, -⟩ := bodyByte_error.1 hb
  obtain ⟨hmax, hcnt, -⟩ := h.inBody hp
  simp only [takeByte_cnt, Config.bufSize, Config.maxContent] at hge hmax
  omega

/-- An EMIT step of a run does not fault: CALC has read every content byte that it sends (R181, R184). -/
theorem Inv.emitStep_ne_error {s : State} {f : Fault} (h : Inv s) (hp : s.phase = .emit) :
    emitStep s ≠ .error f := fun he => by
  obtain ⟨hcontent, hread⟩ := emitStep_error he
  obtain ⟨hmax, hlt, c, hlen, hold, -⟩ := h.inEmit hp
  have hk : s.eidx.toNat - 9 - s.params.len < c.length := by
    simp only [Params.overhead] at hlt
    omega
  rw [readTx_ok.2 ⟨hk.trans_le (hlen.trans_le hmax), (hold _ hk).trans (List.getElem?_eq_getElem hk)⟩] at hread
  cases hread

/-- Which faults the sequencer can raise in a run: that of a never-written content byte, in CALC (R62, R251). -/
theorem Inv.phaseStep_error {inp : StepIn} {s : State} {f : Fault} (h : Inv s) (hs : phaseStep inp s = .error f) :
    s.phase = .calc ∧ s.cnt.toNat < s.txLen.toNat ∧ s.mem.read s.cnt.toNat = none ∧
      f = .encodeNeverWritten s.cnt.toNat := by
  cases hp : s.phase <;> simp only [phaseStep, hp] at hs
  case idle => cases hs
  case sync | hdr =>
    obtain ⟨b, rest, -, -, hb⟩ := rxStep_error.1 hs
    cases hb
  case body => exact absurd hs (h.bodyStep_ne_error hp)
  case emit => exact absurd hs (h.emitStep_ne_error hp)
  -- CALC is the phase left; its constructor is spelled like a keyword.
  case _ =>
    obtain ⟨hmax, hcnt, -⟩ := h.inCalc hp
    rcases readTx_error (calcStep_error hs) with ⟨-, hnone, hf⟩ | ⟨hge, -⟩
    · exact ⟨rfl, hcnt, hnone, hf⟩
    · simp only [Config.bufSize, Config.maxContent] at hge hmax
      omega

/-- Which faults a step of a run can raise: HOST_RD's and that of ENCODE in CALC, each at a never-written entry. -/
theorem Inv.step_fault {s : State} {f : Fault} (h : Inv s) (hs : step s = .fault f) :
    (∃ a wd, fetch s = .hostRd a wd ∧ a.toNat < 0x200 ∧ s.mem.read a.toNat = none ∧ f = .readNeverWritten a) ∨
    (s.phase = .calc ∧ s.cnt.toNat < s.txLen.toNat ∧ s.mem.read s.cnt.toNat = none ∧
      f = .encodeNeverWritten s.cnt.toNat) := by
  rcases exec_fault hs with ⟨a, wd, hi, hread⟩ | ⟨b, rfl | ⟨c, rfl⟩, hphase⟩
  · exact .inl ⟨a, wd, hi, hostRead_error hread⟩
  · exact .inr (h.beginStep.phaseStep_error hphase)
  · exact .inr ((h.beginStep.present c).phaseStep_error hphase)

/-- Settles O36: no instruction is refused, and the two faults of `Inv.step_fault` are those the statement allows. -/
theorem invariantLimitsFaults : Obligations.InvariantLimitsFaults := by
  unfold Obligations.InvariantLimitsFaults
  intro s h
  refine ⟨fun r => exec_ne_refused (fetch s) s r, fun k hk => ?_, fun k hk => ?_, fun a ha => ?_⟩
  · rcases h.step_fault hk with ⟨_, _, -, -, -, hf⟩ | ⟨-, -, -, hf⟩ <;> cases hf
  · rcases h.step_fault hk with ⟨_, _, -, -, -, hf⟩ | ⟨hp, hcnt, hnone, hf⟩
    · cases hf
    · obtain rfl := Fault.encodeNeverWritten.inj hf
      exact ⟨hp, rfl, hcnt, hnone⟩
  · rcases h.step_fault ha with ⟨_, wd, hi, hlt, hnone, hf⟩ | ⟨-, -, -, hf⟩
    · obtain rfl := Fault.readNeverWritten.inj hf
      exact ⟨hlt, hnone, wd, hi⟩
    · cases hf

end Sys2Proof.Machine
end

section
/-!
PROOFS. The encoding family: the decoder and the encoder undo each other, which bits a step ignores, the TYPE bytes of
the wire, and the bytes of a wire field.
-/
namespace Sys2Proof.Machine

/-! ### Decode of encode, and encode of decode -/

@[simp] theorem decodePort_read (a : Index) (wd : Word) : decodePort (portWord 1#1 0#1 a wd) = .hostRd a wd := by
  simp [decodePort]

@[simp] theorem decodePort_noAccess (we : BitVec 1) (a : Index) (wd : Word) :
    decodePort (portWord 0#1 we a wd) = .skip we a wd := by
  simp [decodePort]

/-- A write at any index but CMD's is HOST_WR (R210). -/
theorem decodePort_write {a : Index} (h : a ≠ Config.cmdIndex) (wd : Word) :
    decodePort (portWord 1#1 1#1 a wd) = .hostWr a wd := by
  simp [decodePort, h]

/-- A write of CMD is the command in its data (R201). -/
theorem decodePort_cmdWrite (w : Word) : decodePort (portWr Config.cmdIndex w) = decodeCmd w := by
  simp [decodePort, portWr]

/-- A well-formed transaction is what its word decodes to (R210). -/
theorem decodePort_of_encode {i : Instr} {w : PortWord} (hwf : i.wellFormed = true) (h : encode i = .port w) :
    decodePort w = i := by
  cases i with
  | hostRd a wd =>
    cases h
    exact decodePort_read a wd
  | hostWr a wd =>
    cases h
    exact decodePort_write (by simpa [Instr.wellFormed] using hwf) wd
  | skip we a wd =>
    cases h
    exact decodePort_noAccess we a wd
  | _ => cases h

/-- A TYPE instruction is what its byte decodes to (R85). -/
theorem decodeType_of_encode {i : Instr} {b : Byte} (h : encode i = .wireType b) : decodeType b = .ok i := by
  cases i with
  | typeDiscover | typeAlive | typeAck | typeData | typeFin =>
    cases h
    rfl
  | _ => cases h

/-- Settles O30: each format's decoder undoes the encoder. -/
theorem decodeOfEncode : Obligations.DecodeOfEncode := by
  unfold Obligations.DecodeOfEncode
  intro i hwf
  cases h : encode i with
  | cmd w => exact congrArg Except.ok (eq_decodeCmd_of_encode h).symm
  | port w => exact congrArg Except.ok (decodePort_of_encode hwf h)
  | wireType b => exact decodeType_of_encode h

/-- A transaction but a write of CMD is the encoding of what it decodes to (R210). -/
theorem encode_decodePort {w : PortWord} (h : portSel w = 1#1 → portWe w = 1#1 → portAddr w ≠ Config.cmdIndex) :
    encode (decodePort w) = .port w := by
  have hw := portWord_fields w
  rcases decodePort_cases w with ⟨hsel, e⟩ | ⟨hsel, hwe, e⟩ | ⟨hsel, hwe, haddr, -⟩ | ⟨hsel, hwe, -, e⟩
  · rw [hsel] at hw
    rw [e, encode, hw]
  · rw [hsel, hwe] at hw
    rw [e, encode, hw]
  · exact absurd haddr (h hsel hwe)
  · rw [hsel, hwe] at hw
    rw [e, encode, hw]

/-- Settles O31: the encoder undoes each format's decoder. -/
theorem encodeOfDecode : Obligations.EncodeOfDecode := by
  unfold Obligations.EncodeOfDecode
  exact ⟨encode_decodeCmd, fun _ => encode_decodePort, decodePort_cmdWrite, fun _ _ => encode_decodeType⟩

/-- Settles O32: the decoder evaluated on the written-out words. -/
theorem sampleWordsDecode : Obligations.SampleWordsDecode := by
  unfold Obligations.SampleWordsDecode
  decide

/-! ### The ignored bits of a command word -/

/-- A command starts by its OP, and by ARG for CSUM_ACC only (R92, R204). -/
theorem dispatch_congr {w w' : Word} (hop : cmdOp w = cmdOp w') (harg : cmdOp w = 0x4#4 → cmdArg w = cmdArg w')
    (s : State) : dispatch w s = dispatch w' s := by
  rcases dispatch_cases w s with ⟨h, e⟩ | ⟨h, e⟩ | ⟨h, e⟩ | ⟨h, e⟩ | ⟨h, e⟩ | ⟨h, e⟩ <;> rw [e]
  · exact (dispatch_nop (hop ▸ h) s).symm
  · exact (dispatch_decode (hop ▸ h) s).symm
  · exact (dispatch_encode (hop ▸ h) s).symm
  · exact (dispatch_csumClear (hop ▸ h) s).symm
  · rw [harg h]
    exact (dispatch_csumAcc (hop ▸ h) s).symm
  · exact (dispatch_illegal (hop ▸ h) s).symm

/-- Settles O11: two words that start the same command make the same step (`exec_decodeCmd`). -/
theorem ignoredCommandBits : Obligations.IgnoredCommandBits := by
  unfold Obligations.IgnoredCommandBits
  intro w w' s hop harg
  rw [exec_decodeCmd, exec_decodeCmd, funext (dispatch_congr hop harg)]

/-! ### Steps that are the step without an access -/

/-- A step depends on its action only where it runs it. -/
theorem inStep_congr {act act' : StepIn → State → Except Fault State} {s : State}
    (h : act s.input (beginStep s) = act' s.input (beginStep s)) : inStep act s = inStep act' s := by
  unfold inStep
  rw [h]

@[simp] theorem hostRead_reserved {a : Index} (h : 0x20E ≤ a.toNat) (s : State) : hostRead s a = .ok 0#32 := by
  simp [hostRead, regAt_reserved h]

@[simp] theorem hostWrite_reserved {a : Index} (h : 0x20E ≤ a.toNat) (e : Bool) (w : Word) (t : State) :
    hostWrite e a w t = t := by
  simp [hostWrite, regAt_reserved h]

/-- The sequencer leaves the read data at the 0 with which a step begins (R201). -/
theorem phaseStep_beginStep_regRdata {inp : StepIn} {s t : State} (h : phaseStep inp (beginStep s) = .ok t) :
    t.regRdata = 0#32 := by
  obtain ⟨-, -, -, -, -, hdata, -, -⟩ := phaseStep_frame h
  exact hdata

theorem readStep_reserved {a : Index} (h : 0x20E ≤ a.toNat) (s : State) : readStep a s = skipStep s := by
  refine inStep_congr ?_
  rw [hostRead_reserved h]
  cases hu : phaseStep s.input (beginStep s) with
  | error f => rfl
  | ok u => simp [← phaseStep_beginStep_regRdata hu]

theorem writeStep_reserved {a : Index} (h : 0x20E ≤ a.toNat) (w : Word) (s : State) : writeStep a w s = skipStep s := by
  refine inStep_congr ?_
  cases hu : phaseStep s.input (beginStep s) with
  | error f => rfl
  | ok u => simp [h]

/-- A step without an access leaves 0 in the read data, reset included (R26, R49). -/
theorem skipStep_regRdata {s t : State} (h : skipStep s = .next t) : t.regRdata = 0#32 := by
  rcases skipStep_next.1 h with ⟨-, rfl⟩ | ⟨-, hu⟩
  · rfl
  · exact phaseStep_beginStep_regRdata hu

theorem ne_cmdIndex_of_reserved {a : Index} (h : 0x20E ≤ a.toNat) : a ≠ Config.cmdIndex := by
  rintro rfl
  exact absurd h (by decide)

/-- Settles O19: both accesses to a reserved index are the step without an access, which reads 0. -/
theorem reservedIndicesDoNothing : Obligations.ReservedIndicesDoNothing := by
  unfold Obligations.ReservedIndicesDoNothing
  intro a w s h
  have hread : exec (.hostRd a w) s = exec skipInstr s := readStep_reserved h s
  refine ⟨hread, ?_, fun t ht => skipStep_regRdata (hread.symm.trans ht)⟩
  exact (exec_hostWr_of_ne (ne_cmdIndex_of_reserved h) w s).trans (writeStep_reserved h w s)

/-! ### The TYPE bytes of the wire -/

/-- A named TYPE byte as an instruction is the step in which the receive port presents it (R85). -/
theorem exec_of_decodeType {i : Instr} {b : Byte} (h : decodeType b = .ok i) (s : State) :
    exec i s = presentStep b s := by
  have he := encode_decodeType h
  cases i with
  | typeDiscover | typeAlive | typeAck | typeData | typeFin =>
    cases he
    rfl
  | _ => cases he

/-- To present the byte that heads the channel is the step without an access (R21). -/
theorem presentStep_head {s : State} {b : Byte} (h : s.arrived.head? = some b) : presentStep b s = skipStep s :=
  inStep_congr (congrArg (phaseStep s.input) (present_head h))

/-- Settles O29: the instruction presents the byte that stands there already. -/
theorem typeByteStepIsPlainStep : Obligations.TypeByteStepIsPlainStep := by
  unfold Obligations.TypeByteStepIsPlainStep
  intro s b i _ _ _ hhead hi
  exact (exec_of_decodeType hi s).trans (presentStep_head hhead)

/-- Header position 2 is not the last one: its byte goes to RX_TYPE, whatever it is (R152, R160). -/
theorem hdrByte_type {s : State} (h : s.hidx = 2#4) (b : Byte) : hdrByte b s = countHeader { s with rxType := b } := by
  have htwo : s.hidx.toNat = 2 := congrArg BitVec.toNat h
  have hlen := len_range s.params
  rcases hdrByte_cases b s with ⟨hlast, -⟩ | ⟨-, e⟩
  · rw [Params.hlen] at hlast
    omega
  · rw [e, htwo]
    rfl

/-- The state after a step that takes the presented byte c as the TYPE byte. -/
def typeStored (c : Byte) (s : State) : State :=
  countHeader { takeByte (s.arrived.drop 1) (beginStep s) with rxType := c }

theorem presentStep_type {s : State} (hr : Runs s) (hp : s.phase = .hdr) (hi : s.hidx = 2#4)
    (he : s.input.expired = false) (c : Byte) : presentStep c s = .next (typeStored c s) := by
  have hbyte : hdrByte c (takeByte (s.arrived.drop 1) (present c (beginStep s))) = typeStored c s :=
    hdrByte_type (s := takeByte (s.arrived.drop 1) (present c (beginStep s))) hi c
  refine inStep_of_ok hr ?_
  simp only [phaseStep, present_phase, beginStep_phase, hp]
  exact rxStep_ok.2 (.inr (.inr ⟨c, s.arrived.drop 1, he, rfl, congrArg Except.ok hbyte⟩))

/-- Settles O28: the one step of `presentStep_type`, for each of the five named bytes. -/
theorem typeByteIsStored : Obligations.TypeByteIsStored := by
  unfold Obligations.TypeByteIsStored
  intro s hr hp hi he p hmem
  have hnamed : ∀ p ∈ [(Instr.typeDiscover, 0x00#8), (.typeAlive, 0x01#8), (.typeAck, 0x02#8), (.typeData, 0x03#8),
      (.typeFin, 0x04#8)], decodeType p.2 = .ok p.1 := by decide
  have hidx : (typeStored p.2 s).hidx = 3#4 := by
    simp [typeStored, hi]
  refine ⟨typeStored p.2 s, (exec_of_decodeType (hnamed p hmem) s).trans (presentStep_type hr hp hi he p.2), ?_⟩
  exact ⟨rfl, hidx, hp, rfl, rfl, rfl, rfl, rfl, rfl, rfl, rfl, rfl, rfl, rfl, rfl, rfl, rfl, ⟨rfl, rfl⟩,
    ⟨rfl, rfl, rfl, rfl⟩, ⟨rfl, rfl, rfl⟩, fun _ => rfl, ⟨rfl, rfl⟩⟩

/-! ### The bytes of a wire field -/

theorem bytePos_lt (o : ByteOrder) {W j : Nat} (h : j < W) : bytePos o W j < W := by
  cases o with
  | big => simp only [bytePos]; omega
  | little => exact h

/-- The two numberings of a field's bytes undo each other (R13). -/
theorem bytePos_bytePos (o : ByteOrder) {W j : Nat} (h : j < W) : bytePos o W (bytePos o W j) = j := by
  cases o with
  | big => simp only [bytePos]; omega
  | little => rfl

theorem bytePos_inj {o : ByteOrder} {W i j : Nat} (hi : i < W) (hj : j < W) :
    bytePos o W i = bytePos o W j ↔ i = j :=
  ⟨fun h => by rw [← bytePos_bytePos o hi, h, bytePos_bytePos o hj], congrArg _⟩

theorem field_getElem? (o : ByteOrder) {W j n : Nat} (v : BitVec n) (h : j < W) :
    (field o W v)[j]? = some (fieldByte o W v j) := by
  simp [field, h]

/-- Wire byte i of a value after b was placed as its wire byte j (R83). -/
theorem fieldByte_placeByte {o : ByteOrder} {W i j n : Nat} (v : BitVec n) (b : Byte) (hi : i < W) (hj : j < W)
    (hn : 8 * W ≤ n) : fieldByte o W (placeByte o W j b v) i = if i = j then b else fieldByte o W v i := by
  have hpi := bytePos_lt o hi
  have hpj := bytePos_lt o hj
  unfold fieldByte
  rw [byte_placeByte o W j b v _ (by omega) (by omega)]
  simp only [hj, true_and, bytePos_inj hi hj]

/-- 0 with the first m wire bytes of v placed one by one in wire order. -/
def placedBytes (o : ByteOrder) (W : Nat) {n : Nat} (v : BitVec n) (m : Nat) : BitVec n :=
  (List.range m).foldl (fun acc j => placeByte o W j (fieldByte o W v j) acc) 0#n

theorem placedBytes_succ (o : ByteOrder) (W : Nat) {n : Nat} (v : BitVec n) (m : Nat) :
    placedBytes o W v (m + 1) = placeByte o W m (fieldByte o W v m) (placedBytes o W v m) := by
  simp [placedBytes, List.range_succ]

theorem foldl_zipIdx_field (o : ByteOrder) (W : Nat) {n : Nat} (v : BitVec n) :
    (field o W v).zipIdx.foldl (fun acc bj => placeByte o W bj.2 bj.1 acc) 0#n = placedBytes o W v W := by
  have hzip : (field o W v).zipIdx = (List.range W).map fun j => (fieldByte o W v j, j) := by
    refine List.ext_getElem ?_ ?_ <;> simp [field]
  rw [hzip, List.foldl_map]
  rfl

/-- No byte is placed above a field of W bytes. -/
theorem placedBytes_lt (o : ByteOrder) (W : Nat) {n : Nat} (v : BitVec n) (m : Nat) :
    (placedBytes o W v m).toNat < 2 ^ (8 * W) := by
  induction m with
  | zero => simp [placedBytes]
  | succ m ih =>
    rw [placedBytes_succ]
    exact placeByte_lt o W m _ _ ih

/-- Every byte placed so far is v's: the next one leaves it as it is. -/
theorem fieldByte_placedBytes {o : ByteOrder} {W n : Nat} (v : BitVec n) (hn : 8 * W ≤ n) {m j : Nat} (hm : m ≤ W)
    (hj : j < m) : fieldByte o W (placedBytes o W v m) j = fieldByte o W v j := by
  induction m with
  | zero => omega
  | succ m ih =>
    rw [placedBytes_succ, fieldByte_placeByte _ _ (by omega) (by omega) hn]
    by_cases h : j = m
    · rw [if_pos h, h]
    · rw [if_neg h, ih (by omega) (by omega)]

/-- A value of a W-byte field is given by its W wire bytes. -/
theorem eq_of_fieldByte_eq {o : ByteOrder} {W n : Nat} {x y : BitVec n} (hx : x.toNat < 2 ^ (8 * W))
    (hy : y.toNat < 2 ^ (8 * W)) (h : ∀ j, j < W → fieldByte o W x j = fieldByte o W y j) : x = y := by
  refine BitVec.eq_of_getLsbD_eq fun i _ => ?_
  by_cases hi : i < 8 * W
  · have hk : i / 8 < W := by omega
    have hbyte := h _ (bytePos_lt o hk)
    unfold fieldByte at hbyte
    rw [bytePos_bytePos o hk] at hbyte
    have hbit := congrArg (·.getLsbD (i % 8)) hbyte
    simpa [BitVec.getLsbD_extractLsb', Nat.mod_lt, Nat.div_add_mod] using hbit
  · have hle : 2 ^ (8 * W) ≤ 2 ^ i := Nat.pow_le_pow_right (by omega) (by omega)
    rw [← BitVec.testBit_toNat, ← BitVec.testBit_toNat, Nat.testBit_lt_two_pow (by omega),
      Nat.testBit_lt_two_pow (by omega)]

/-- The bytes of a field, placed in wire order, give its value back (R83). -/
theorem place_field (o : ByteOrder) {W n : Nat} {v : BitVec n} (hn : 8 * W ≤ n) (hv : v.toNat < 2 ^ (8 * W)) :
    (field o W v).zipIdx.foldl (fun acc bj => placeByte o W bj.2 bj.1 acc) 0#n = v := by
  rw [foldl_zipIdx_field]
  exact eq_of_fieldByte_eq (placedBytes_lt o W v W) hv fun _ hj => fieldByte_placedBytes v hn le_rfl hj

/-- Settles O50: each byte where R13 puts it, and `place_field` for CHECKSUM and CONTENT_LENGTH. -/
theorem fieldRoundTrip : Obligations.FieldRoundTrip := by
  unfold Obligations.FieldRoundTrip
  refine ⟨fun _ _ => ⟨rfl, rfl⟩, fun W j n v hj => ⟨field_getElem? .big v hj, field_getElem? .little v hj⟩,
    fun W j n v b hj hn => ?_, fun o v => place_field o (by decide) v.isLt, fun p v hv => place_field p.byteOrder ?_ hv⟩
  · have placed : ∀ o, fieldByte o W (placeByte o W j b v) j = b := fun o => by
      rw [fieldByte_placeByte v b hj hj hn, if_pos rfl]
    exact ⟨placed .big, placed .little⟩
  · have := len_range p
    omega

/-- Settles O51: the frame evaluated on the sample content. -/
theorem sampleFrames : Obligations.SampleFrames := by
  unfold Obligations.SampleFrames
  decide

end Sys2Proof.Machine
end

section
/-!
PROOFS. The checksum family: the arithmetic of CSUM and what it does and does not detect, what every step does with the
accumulator, and the two commands that compute a checksum.
-/
namespace Sys2Proof.Machine

/-! ### The term of one byte -/

/-- What the byte at position i adds to the checksum (R110). -/
def csumTerm (i : Nat) (b : Byte) : Word := b.setWidth 32 <<< (i % 4)

theorem csumFrom_cons (i : Nat) (b : Byte) (c : List Byte) :
    csumFrom i (b :: c) = csumTerm i b ^^^ csumFrom (i + 1) c := rfl

theorem csum_append (a c : List Byte) : csum (a ++ c) = csum a ^^^ csumFrom a.length c := by
  rw [csum, csumFrom_append, Nat.zero_add, csum]

/-- A byte shifted left by at most 3 keeps all its bits. -/
theorem csumTerm_toNat (i : Nat) (b : Byte) : (csumTerm i b).toNat = b.toNat * 2 ^ (i % 4) := by
  have hpow : 2 ^ (i % 4) ≤ 2 ^ 3 := Nat.pow_le_pow_right (by omega) (by omega)
  have hmul : b.toNat * 2 ^ (i % 4) ≤ b.toNat * 2 ^ 3 := Nat.mul_le_mul_left _ hpow
  rw [csumTerm, BitVec.toNat_shiftLeft, BitVec.toNat_setWidth_of_le (by omega), Nat.shiftLeft_eq]
  exact Nat.mod_eq_of_lt (by omega)

theorem csumTerm_lt (i : Nat) (b : Byte) : (csumTerm i b).toNat < 2 ^ 11 := by
  have hpow : 2 ^ (i % 4) ≤ 2 ^ 3 := Nat.pow_le_pow_right (by omega) (by omega)
  calc (csumTerm i b).toNat
      = b.toNat * 2 ^ (i % 4) := csumTerm_toNat i b
    _ ≤ b.toNat * 2 ^ 3 := Nat.mul_le_mul_left _ hpow
    _ < 2 ^ 11 := by omega

/-- At one position different bytes have different terms. -/
theorem csumTerm_injective {i : Nat} {x y : Byte} (h : csumTerm i x = csumTerm i y) : x = y := by
  have hmul : x.toNat * 2 ^ (i % 4) = y.toNat * 2 ^ (i % 4) := by
    rw [← csumTerm_toNat, ← csumTerm_toNat, h]
  exact BitVec.eq_of_toNat_eq (Nat.eq_of_mul_eq_mul_right (Nat.two_pow_pos _) hmul)

theorem csumTerm_xor (i : Nat) (x y : Byte) : csumTerm i (x ^^^ y) = csumTerm i x ^^^ csumTerm i y := by
  simp only [csumTerm, BitVec.setWidth_xor, BitVec.shiftLeft_xor_distrib]

theorem csumTerm_mod {i j : Nat} (h : i % 4 = j % 4) (b : Byte) : csumTerm i b = csumTerm j b := by
  rw [csumTerm, h, csumTerm]

/-! ### The range of the checksum -/

theorem csumFrom_lt (i : Nat) (c : List Byte) : (csumFrom i c).toNat < 2 ^ 11 := by
  induction c generalizing i with
  | nil => simp [csumFrom]
  | cons b c ih =>
    rw [csumFrom_cons, BitVec.toNat_xor]
    exact Nat.xor_lt_two_pow (csumTerm_lt i b) (ih (i + 1))

/-- Four bytes whose checksum is v: bits 2 to 0 of v at position 0, and bits 10 to 3 at position 3, where the shift
is 3. -/
def bytesFor (v : Word) : List Byte := [(v.extractLsb' 0 3).setWidth 8, 0#8, 0#8, v.extractLsb' 3 8]

theorem csum_bytesFor {v : Word} (h : v.toNat < 0x800) : csum (bytesFor v) = v := by
  have high : ∀ i, 11 ≤ i → v.getLsbD i = false := fun i hi => by
    have hpow : 2 ^ 11 ≤ 2 ^ i := Nat.pow_le_pow_right (by omega) hi
    exact Nat.testBit_lt_two_pow (by omega)
  have hsum : csum (bytesFor v) =
      ((v.extractLsb' 0 3).setWidth 8).setWidth 32 ^^^ ((v.extractLsb' 3 8).setWidth 32 <<< 3) := by
    simp [csum, csumFrom, bytesFor]
  rw [hsum]
  refine BitVec.eq_of_getLsbD_eq fun i hi => ?_
  rcases Nat.lt_or_ge i 3 with h3 | h3
  · simp [h3, hi]
  · rcases Nat.lt_or_ge i 11 with h11 | h11
    · simp [hi, show ¬ i < 3 by omega, show i - 3 < 8 by omega, show 3 + (i - 3) = i by omega]
    · simp [high i h11, show ¬ i < 3 by omega, show ¬ i - 3 < 8 by omega]

/-! ### What the checksum detects -/

/-- Over contents of one length the checksum is linear (R114). -/
theorem csumFrom_zipWith_xor (i : Nat) {a c : List Byte} (h : a.length = c.length) :
    csumFrom i a ^^^ csumFrom i c = csumFrom i (List.zipWith (· ^^^ ·) a c) := by
  induction a generalizing i c with
  | nil =>
    obtain rfl := List.eq_nil_of_length_eq_zero h.symm
    simp [csumFrom]
  | cons x a ih =>
    cases c with
    | nil => cases h
    | cons y c =>
      rw [List.zipWith_cons_cons, csumFrom_cons, csumFrom_cons, csumFrom_cons, csumTerm_xor,
        ← ih (i + 1) (Nat.succ.inj h)]
      ac_rfl

/-- Contents that differ in one byte differ in its term alone, which is another (R114). -/
theorem csum_ne_of_byte_ne (pre post : List Byte) {x y : Byte} (h : x ≠ y) :
    csum (pre ++ x :: post) ≠ csum (pre ++ y :: post) := by
  intro heq
  rw [csum_append, csum_append, csumFrom_cons, csumFrom_cons, BitVec.xor_right_inj, BitVec.xor_left_inj] at heq
  exact h (csumTerm_injective heq)

/-- Settles O48: linearity, the term of the one byte that differs, and linearity once more. -/
theorem checksumDetectsSingleByteChange : Obligations.ChecksumDetectsSingleByteChange := by
  unfold Obligations.ChecksumDetectsSingleByteChange
  have linear : ∀ a b : List Byte, a.length = b.length →
      csum a ^^^ csum b = csum (List.zipWith (· ^^^ ·) a b) := fun _ _ => csumFrom_zipWith_xor 0
  refine ⟨linear, fun pre post x y => csum_ne_of_byte_ne pre post, fun a b h => ?_⟩
  rw [← linear a b h, BitVec.xor_eq_zero_iff]

/-! ### What the checksum does not detect -/

/-- Bytes at positions of one class modulo 4 can be exchanged: the shift is the same (R115). -/
theorem csum_exchange (pre mid post : List Byte) (x y : Byte) (h : mid.length % 4 = 3) :
    csum (pre ++ x :: mid ++ y :: post) = csum (pre ++ y :: mid ++ x :: post) := by
  have class_eq : ∀ b, csumTerm (pre ++ x :: mid).length b = csumTerm pre.length b :=
    csumTerm_mod (by simp; omega)
  have hlen : (pre ++ y :: mid).length = (pre ++ x :: mid).length := by simp
  rw [csum_append, csum_append (pre ++ y :: mid), csum_append, csum_append, hlen]
  simp only [csumFrom_cons, class_eq]
  ac_rfl

/-- The content with x XORed into the bytes at the given places. -/
def xorAt (places : List Nat) (x : Byte) (c : List Byte) : List Byte :=
  c.mapIdx fun i b => if i ∈ places then b ^^^ x else b

@[simp] theorem xorAt_length (places : List Nat) (x : Byte) (c : List Byte) :
    (xorAt places x c).length = c.length := by
  simp [xorAt]

theorem xorAt_nil (x : Byte) (c : List Byte) : xorAt [] x c = c :=
  List.ext_getElem (by simp) fun _ _ _ => by simp [xorAt]

/-- A further place is one more byte changed. -/
theorem xorAt_cons {p : Nat} {places : List Nat} (h : p ∉ places) (x : Byte) (c : List Byte) :
    xorAt (p :: places) x c = (xorAt places x c).modify p (· ^^^ x) := by
  refine List.ext_getElem (by simp) fun i hi _ => ?_
  by_cases hip : p = i
  · subst hip
    simp [xorAt, h]
  · simp [xorAt, hip, Ne.symm hip]

/-- XORing x into one byte XORs the term of x into the checksum. -/
theorem csumFrom_modify {p : Nat} {c : List Byte} (h : p < c.length) (i : Nat) (x : Byte) :
    csumFrom i (c.modify p (· ^^^ x)) = csumFrom i c ^^^ csumTerm (i + p) x := by
  induction c generalizing i p with
  | nil => simp at h
  | cons b c ih =>
    cases p with
    | zero =>
      rw [List.modify_zero_cons, csumFrom_cons, csumFrom_cons, csumTerm_xor, Nat.add_zero]
      ac_rfl
    | succ p =>
      rw [List.modify_succ_cons, csumFrom_cons, csumFrom_cons, ih (by simpa using h),
        show i + 1 + p = i + (p + 1) by omega, BitVec.xor_assoc]

/-- XORing x into several bytes of class k XORs the term of x into the checksum as often (R115). -/
theorem csum_xorAt {k : Nat} {places : List Nat} (hnodup : places.Nodup) (x : Byte) {c : List Byte}
    (h : ∀ i ∈ places, i < c.length ∧ i % 4 = k) :
    csum (xorAt places x c) = csum c ^^^ (if places.length % 2 = 0 then 0#32 else csumTerm k x) := by
  induction places with
  | nil => simp [xorAt_nil]
  | cons p places ih =>
    obtain ⟨hp, hnodup⟩ := List.nodup_cons.1 hnodup
    obtain ⟨hlt, hclass⟩ := h p (List.mem_cons_self ..)
    have hterm : csumTerm (0 + p) x = csumTerm k x := csumTerm_mod (by omega) x
    rw [xorAt_cons hp, csum, csumFrom_modify (by simpa using hlt), hterm, ← csum,
      ih hnodup fun i hi => h i (List.mem_cons_of_mem p hi)]
    rcases Nat.mod_two_eq_zero_or_one places.length with heven | hodd
    · simp [heven, show (places.length + 1) % 2 ≠ 0 by omega]
    · simp [hodd, show (places.length + 1) % 2 = 0 by omega]

/-- A multiple of four bytes, repeated, has checksum 0: each byte meets itself at the same shift. -/
theorem csum_append_self {c : List Byte} (h : c.length % 4 = 0) : csum (c ++ c) = 0#32 := by
  rw [csum_append, csumFrom_mod (i := c.length) (j := 0) (by omega), csum, BitVec.xor_self]

/-- Settles O49: the exchange, an even number of equal changes in one class, and equal bytes as a repeated content. -/
theorem checksumBlindSpots : Obligations.ChecksumBlindSpots := by
  unfold Obligations.ChecksumBlindSpots
  refine ⟨csum_exchange, by decide, by decide, by decide, fun c x k places hnodup heven h => ?_, fun x n => ?_⟩
  · have hsum := csum_xorAt hnodup x h
    rwa [if_pos heven, BitVec.xor_zero] at hsum
  · have htwice : List.replicate (8 * n) x = List.replicate (4 * n) x ++ List.replicate (4 * n) x := by
      rw [List.replicate_append_replicate]
      congr 1
      omega
    rw [htwice]
    exact csum_append_self (by simp)

/-! ### The accumulator computes the checksum -/

theorem accumulated_accClear (s : State) : Accumulated (accClear s) [] := ⟨rfl, rfl⟩

/-- Bytes accumulated one by one extend the content whose checksum the accumulator holds (R112). -/
theorem accumulated_foldl (bs : List Byte) {c : List Byte} {s : State} (h : Accumulated s c) :
    Accumulated (bs.foldl (fun t b => accByte b t) s) (c ++ bs) := by
  induction bs generalizing c s with
  | nil => simpa using h
  | cons b bs ih => simpa using ih (accumulated_snoc b h)

/-- Settles O45: from the empty content on. -/
theorem accumulationComputesChecksum : Obligations.AccumulationComputesChecksum := by
  unfold Obligations.AccumulationComputesChecksum
  exact fun bs s => accumulated_foldl bs (accumulated_accClear s)

/-! ### What a step does with the accumulator -/

theorem sameChecksum_refl (s : State) : SameChecksum s s := ⟨rfl, rfl⟩

theorem SameChecksum.trans {s t u : State} (h : SameChecksum s t) (h' : SameChecksum t u) : SameChecksum s u := by
  obtain ⟨hacc, hpos⟩ := h
  obtain ⟨hacc', hpos'⟩ := h'
  exact ⟨hacc'.trans hacc, hpos'.trans hpos⟩

theorem SameChecksum.accByte {s t : State} (h : SameChecksum s t) (b : Byte) :
    SameChecksum (accByte b s) (accByte b t) := by
  obtain ⟨hacc, hpos⟩ := h
  exact ⟨by simp [hacc, hpos], by simp [hpos]⟩

theorem AccessFrame.sameChecksum {u t : State} (h : AccessFrame u t) : SameChecksum u t := by
  obtain ⟨_, _, _, _, _, _, rfl⟩ := h
  exact ⟨rfl, rfl⟩

theorem syncByte_sameChecksum (b : Byte) (s : State) : SameChecksum s (syncByte b s) := by
  rcases syncByte_cases b s with ⟨-, -, -, e⟩ | ⟨-, e⟩ <;> rw [e] <;> exact ⟨rfl, rfl⟩

theorem placeHeaderByte_sameChecksum (k : Nat) (b : Byte) (s : State) : SameChecksum s (placeHeaderByte k b s) := by
  rw [placeHeaderByte_eq]
  exact ⟨rfl, rfl⟩

theorem checkLength_sameChecksum (s : State) : SameChecksum s (checkLength s) := by
  rcases checkLength_cases s with ⟨-, e⟩ | ⟨-, e⟩ | ⟨-, -, e⟩ <;> rw [e] <;> exact ⟨rfl, rfl⟩

theorem hdrByte_sameChecksum (b : Byte) (s : State) : SameChecksum s (hdrByte b s) := by
  have hplace := placeHeaderByte_sameChecksum s.hidx.toNat b s
  rcases hdrByte_cases b s with ⟨-, e⟩ | ⟨-, e⟩ <;> rw [e]
  · exact hplace.trans (checkLength_sameChecksum _)
  · exact hplace

theorem compareChecksum_sameChecksum (s : State) : SameChecksum s (compareChecksum s) := by
  rcases compareChecksum_cases s with ⟨-, e⟩ | ⟨-, e⟩ <;> rw [e] <;> exact ⟨rfl, rfl⟩

/-- One byte was accumulated on the way from s to t (R111). -/
def AddsByte (s t : State) : Prop := ∃ b, SameChecksum (accByte b s) t

theorem bodyByte_addsByte {b : Byte} {s u : State} (h : bodyByte b s = .ok u) : AddsByte s u := by
  obtain ⟨-, ⟨-, rfl⟩ | ⟨-, rfl⟩⟩ := bodyByte_ok.1 h
  · exact ⟨b, compareChecksum_sameChecksum (countContent (accByte b (storeRx s.cnt.toNat b s)))⟩
  · exact ⟨b, rfl, rfl⟩

theorem calcStep_addsByte {s u : State} (h : calcStep s = .ok u) : AddsByte s u := by
  obtain ⟨b, -, -, ⟨-, rfl⟩ | ⟨-, rfl⟩⟩ := calcStep_ok.1 h <;> exact ⟨b, rfl, rfl⟩

theorem emitStep_sameChecksum {s u : State} (h : emitStep s = .ok u) : SameChecksum s u := by
  obtain ⟨b, -, ⟨-, rfl⟩ | ⟨-, rfl⟩⟩ := emitStep_ok.1 h <;> exact ⟨rfl, rfl⟩

/-- A receiving step leaves the accumulator alone, or does with it what the byte's handling does. -/
theorem rxStep_checksum {f : Byte → State → Except Fault State} {inp : StepIn} {s u : State}
    (hs : rxStep f inp s = .ok u) : SameChecksum s u ∨ ∃ b rest, f b (takeByte rest s) = .ok u := by
  rcases rxStep_ok.1 hs with ⟨-, rfl⟩ | ⟨-, -, rfl⟩ | ⟨b, rest, -, -, hb⟩
  · exact .inl ⟨rfl, rfl⟩
  · exact .inl (sameChecksum_refl _)
  · exact .inr ⟨b, rest, hb⟩

/-- The sequencer writes the accumulator in BODY and CALC only, and there it accumulates a byte (R111). -/
theorem phaseStep_checksum {inp : StepIn} {s u : State} (hs : phaseStep inp s = .ok u) :
    SameChecksum s u ∨ ((s.phase = .body ∨ s.phase = .calc) ∧ AddsByte s u) := by
  cases hp : s.phase <;> simp only [phaseStep, hp] at hs
  case idle =>
    cases hs
    exact .inl (sameChecksum_refl s)
  case sync =>
    rcases rxStep_checksum hs with hsame | ⟨b, rest, hb⟩
    · exact .inl hsame
    · cases hb
      exact .inl (syncByte_sameChecksum b (takeByte rest s))
  case hdr =>
    rcases rxStep_checksum hs with hsame | ⟨b, rest, hb⟩
    · exact .inl hsame
    · cases hb
      exact .inl (hdrByte_sameChecksum b (takeByte rest s))
  case body =>
    rcases rxStep_checksum hs with hsame | ⟨b, rest, hb⟩
    · exact .inl hsame
    · exact .inr ⟨.inl rfl, bodyByte_addsByte (s := takeByte rest s) hb⟩
  case emit => exact .inl (emitStep_sameChecksum hs)
  -- CALC is the phase left; its constructor is spelled like a keyword.
  case _ => exact .inr ⟨.inr rfl, calcStep_addsByte hs⟩

theorem encodeStart_checksum (s : State) :
    SameChecksum s (encodeStart s) ∨ SameChecksum (accClear s) (encodeStart s) := by
  rcases encodeStart_cases s with ⟨-, e⟩ | ⟨-, e⟩ <;> rw [e]
  · exact .inl ⟨rfl, rfl⟩
  · exact .inr ⟨rfl, rfl⟩

/-- Of the commands only DECODE, ENCODE, CSUM_CLEAR and CSUM_ACC write the accumulator: they clear it or accumulate a
byte (R111). -/
theorem dispatch_checksum (w : Word) (s : State) :
    SameChecksum s (dispatch w s) ∨ (cmdOp w ∈ [0x1#4, 0x2#4, 0x3#4, 0x4#4] ∧
      (SameChecksum (accClear s) (dispatch w s) ∨ AddsByte s (dispatch w s))) := by
  rcases dispatch_cases w s with ⟨-, e⟩ | ⟨hop, e⟩ | ⟨hop, e⟩ | ⟨hop, e⟩ | ⟨hop, e⟩ | ⟨-, e⟩ <;> rw [e]
  · exact .inl (sameChecksum_refl s)
  · exact .inr ⟨by simp [hop], .inl ⟨rfl, rfl⟩⟩
  · exact (encodeStart_checksum s).imp_right fun hclear => ⟨by simp [hop], .inl hclear⟩
  · exact .inr ⟨by simp [hop], .inl ⟨rfl, rfl⟩⟩
  · exact .inr ⟨by simp [hop], .inr ⟨cmdArg w, rfl, rfl⟩⟩
  · exact .inl ⟨rfl, rfl⟩

/-- All that a completing instruction can do with the accumulator, and when: nothing, a reset, a byte in BODY or CALC,
or a clear or a byte by a command in IDLE (R111). -/
theorem exec_checksum {i : Instr} {s t : State} (h : exec i s = .next t) :
    SameChecksum s t ∨ (s.input.rst = true ∧ SameChecksum (accClear s) t) ∨
    ((s.phase = .body ∨ s.phase = .calc) ∧ AddsByte s t) ∨
    (s.phase = .idle ∧
      (∃ w, cmdOp w ∈ [0x1#4, 0x2#4, 0x3#4, 0x4#4] ∧ (i = decodeCmd w ∨ i = .hostWr Config.cmdIndex w)) ∧
      (SameChecksum (accClear s) t ∨ AddsByte s t)) := by
  rcases exec_action h with ⟨hr, rfl⟩ | ⟨hp, w, hi, rfl⟩ | ⟨b, u, hb, hu, hf⟩
  · exact .inr (.inl ⟨hr, rfl, rfl⟩)
  · rcases dispatch_checksum w (beginStep s) with hsame | ⟨hop, hwrite⟩
    · exact .inl hsame
    · exact .inr (.inr (.inr ⟨hp, ⟨w, hop, hi⟩, hwrite⟩))
  · have hbegin : SameChecksum s b ∧ b.phase = s.phase := by
      rcases hb with rfl | ⟨c, rfl⟩ <;> exact ⟨⟨rfl, rfl⟩, rfl⟩
    obtain ⟨hsame, hphase⟩ := hbegin
    rcases phaseStep_checksum hu with hkeep | ⟨hp, x, hadd⟩
    · exact .inl ((hsame.trans hkeep).trans hf.sameChecksum)
    · rw [hphase] at hp
      exact .inr (.inr (.inl ⟨hp, x, ((hsame.accByte x).trans hadd).trans hf.sameChecksum⟩))

/-- Settles O42: the cases of `exec_checksum` without what they do. -/
theorem accumulatorWriters : Obligations.AccumulatorWriters := by
  unfold Obligations.AccumulatorWriters
  intro i s t h
  rcases exec_checksum h with hsame | ⟨hr, -⟩ | ⟨hbody | hcalc, -⟩ | ⟨hp, hcmd, -⟩
  · exact .inl hsame
  · exact .inr (.inl hr)
  · exact .inr (.inr (.inl hbody))
  · exact .inr (.inr (.inr (.inl hcalc)))
  · exact .inr (.inr (.inr (.inr ⟨hp, hcmd⟩)))

theorem SameChecksum.accRange {s t : State} (h : SameChecksum s t) (hs : s.acc.toNat < 0x800) :
    t.acc.toNat < 0x800 := by
  obtain ⟨hacc, -⟩ := h
  rwa [hacc]

/-- Every instruction keeps the accumulator within 11 bits: whatever it does with it does (R113). -/
theorem exec_accRange {i : Instr} {s t : State} (hs : s.acc.toNat < 0x800) (h : exec i s = .next t) :
    t.acc.toNat < 0x800 := by
  have hclear : SameChecksum (accClear s) t → t.acc.toNat < 0x800 := fun hsame => hsame.accRange zero_accRange
  have hadd : AddsByte s t → t.acc.toNat < 0x800 := fun ⟨b, hsame⟩ => hsame.accRange (accByte_range b hs)
  rcases exec_checksum h with hsame | ⟨-, hreset⟩ | ⟨-, hbyte⟩ | ⟨-, -, hstart⟩
  · exact hsame.accRange hs
  · exact hclear hreset
  · exact hadd hbyte
  · exact hstart.elim hclear hadd

/-- Settles O47: the range of a term and of their XOR, a content for each value, and the step of the accumulator. -/
theorem checksumRange : Obligations.ChecksumRange := by
  unfold Obligations.ChecksumRange
  exact ⟨fun b i => csumTerm_lt i b, csumFrom_lt 0, fun v hv => ⟨bytesFor v, csum_bytesFor hv⟩, by decide,
    fun _ => rfl, fun _ _ _ => exec_accRange⟩

/-! ### The commands CSUM_CLEAR and CSUM_ACC -/

theorem commandStep_of_idle {start : State → State} {s : State} (hr : Runs s) (hp : s.phase = .idle) :
    commandStep start s = .next (start (beginStep s)) := commandStep_next.2 (.inr (.inl ⟨hr, hp, rfl⟩))

/-- Written while a command runs, a command is dropped: the step is that without an access, and OVR is set (R207). -/
theorem commandStep_of_busy {start : State → State} {s : State} (hr : Runs s) (hp : s.phase ≠ .idle) :
    commandStep start s = mapNext setOvr (skipStep s) := by
  cases hu : phaseStep s.input (beginStep s) with
  | ok u =>
    have hskip : skipStep s = .next u := skipStep_next.2 (.inr ⟨hr, hu⟩)
    rw [hskip]
    exact commandStep_next.2 (.inr (.inr ⟨hr, hp, u, hu, rfl⟩))
  | error f =>
    have hskip : skipStep s = .fault f := inStep_fault.2 ⟨hr, hu⟩
    rw [hskip]
    refine inStep_fault.2 ⟨hr, ?_⟩
    split
    · contradiction
    · simp [hu]

/-- The command ended in its one step with the status c, and changed nothing else but the accumulator (R116, R117). -/
def CommandEnded (c : Code) (s t : State) : Prop :=
  t.done = true ∧ t.code = c ∧ t.busy = false ∧ t.rxValid = s.rxValid ∧ t.ovr = s.ovr ∧ SameSequencer s t ∧
    SameTx s t ∧ SameRx s t ∧ SameMem s t ∧ SameStreams s t ∧ NoOutputs t ∧ Advanced s t

theorem finish_commandEnded (c : Code) (acc : Word) (pos : BitVec 2) {s : State} (hp : s.phase = .idle) :
    CommandEnded c s (finish c { beginStep s with acc := acc, pos := pos }) :=
  ⟨rfl, rfl, rfl, rfl, rfl, ⟨hp.symm, rfl, rfl, rfl, rfl, rfl⟩, ⟨rfl, rfl, rfl⟩, ⟨rfl, rfl, rfl, rfl, rfl⟩,
    fun _ => rfl, ⟨rfl, rfl⟩, ⟨rfl, rfl, rfl, rfl⟩, ⟨rfl, rfl⟩⟩

/-- Settles O4: the step in IDLE, the dropped write, and the decoder at OP 3. -/
theorem csumClearZeroesAccumulator : Obligations.CsumClearZeroesAccumulator := by
  unfold Obligations.CsumClearZeroesAccumulator
  intro lo arg hi s hr
  refine ⟨fun hp => ?_, fun hp => commandStep_of_busy hr hp, fun w hop => by simp [decodeCmd, hop]⟩
  exact ⟨csumClearStart (beginStep s), commandStep_of_idle hr hp, rfl, rfl, finish_commandEnded .ok _ _ hp⟩

/-- Settles O5: the step in IDLE, the dropped write, and the decoder at OP 4. -/
theorem csumAccAccumulatesByte : Obligations.CsumAccAccumulatesByte := by
  unfold Obligations.CsumAccAccumulatesByte
  intro lo arg hi s hr
  refine ⟨fun hp => ?_, fun hp => commandStep_of_busy hr hp, fun w hop => by simp [decodeCmd, hop]⟩
  have hpos : (s.pos + 1#2).toNat = (s.pos.toNat + 1) % 4 := by simp [BitVec.toNat_add]
  exact ⟨csumAccStart arg (beginStep s), commandStep_of_idle hr hp, rfl, hpos, finish_commandEnded .ok _ _ hp⟩

/-! ### A checksum by commands -/

/-- A step whose transaction writes CMD is the command step of its word (R201, R204). -/
theorem step_of_cmdWrite {s : State} {w : Word} (h : s.input.port = portWr Config.cmdIndex w) :
    step s = commandStep (dispatch w) s := by
  have hsel : portSel s.input.port = 1#1 := by simp [h, portWr]
  have hfetch : fetch s = decodeCmd w := by
    rcases fetch_cases s with ⟨-, e⟩ | ⟨h0, -⟩ | ⟨h0, -⟩
    · rw [e, h, decodePort_cmdWrite]
    all_goals simp [hsel] at h0
  rw [step, hfetch, exec_decodeCmd]

/-- t is s but for the accumulator, DONE and CODE, the outputs of the last step and the inputs that are used up. -/
def ChecksumFrame (s t : State) : Prop :=
  ∃ acc pos done code rxTake txValid txData regRdata inputs, t =
    { s with
      acc := acc, pos := pos, done := done, code := code, rxTake := rxTake, txValid := txValid, txData := txData
      regRdata := regRdata, inputs := inputs }

theorem checksumFrame_refl (s : State) : ChecksumFrame s s := ⟨_, _, _, _, _, _, _, _, _, rfl⟩

theorem ChecksumFrame.trans {s t u : State} (h : ChecksumFrame s t) (h' : ChecksumFrame t u) : ChecksumFrame s u := by
  obtain ⟨_, _, _, _, _, _, _, _, _, rfl⟩ := h
  obtain ⟨_, _, _, _, _, _, _, _, _, rfl⟩ := h'
  exact ⟨_, _, _, _, _, _, _, _, _, rfl⟩

theorem ChecksumFrame.phase {s t : State} (h : ChecksumFrame s t) : t.phase = s.phase := by
  obtain ⟨_, _, _, _, _, _, _, _, _, rfl⟩ := h
  rfl

theorem beginStep_of_noArrival {s : State} (h : s.input.arrive = []) :
    beginStep s =
      { s with rxTake := false, txValid := false, txData := 0#8, regRdata := 0#32, inputs := s.inputs.tail } := by
  rw [beginStep, h, List.append_nil]

theorem finish_of_idle {s : State} (c : Code) (hp : s.phase = .idle) :
    finish c s = { s with code := c, done := true } := by
  rw [finish, ← hp]

/-- A command that writes the accumulator and ends stays within the frame. -/
theorem finish_checksumFrame (c : Code) (acc : Word) (pos : BitVec 2) {s : State} (hp : s.phase = .idle)
    (h : s.input.arrive = []) : ChecksumFrame s (finish c { beginStep s with acc := acc, pos := pos }) := by
  refine ⟨acc, pos, true, c, false, false, 0#8, 0#32, s.inputs.tail, ?_⟩
  rw [beginStep_of_noArrival h]
  exact finish_of_idle c hp

/-- The checksum of c stands in the accumulator behind a command that ended OK. -/
def ChecksumDone (c : List Byte) (t : State) : Prop := Accumulated t c ∧ t.done = true ∧ t.code = .ok

theorem input_of_inputs {s : State} {i : StepIn} {rest : List StepIn} (h : s.inputs = i :: rest) : s.input = i := by
  simp [State.input, h]

/-- A CMD write in IDLE with nothing else on the inputs starts its command. -/
theorem step_of_cmdInput {s : State} {w : Word} {rest : List StepIn} (hp : s.phase = .idle)
    (hin : s.inputs = cmdInput w :: rest) : step s = .next (dispatch w (beginStep s)) := by
  have hinput : s.input = cmdInput w := input_of_inputs hin
  have hr : Runs s := by simp [Runs, hinput, cmdInput]
  rw [step_of_cmdWrite (by rw [hinput, cmdInput]), commandStep_of_idle hr hp]

/-- The step in which the host writes CSUM_CLEAR (R116). -/
theorem step_csumClear {s : State} {rest : List StepIn} (hp : s.phase = .idle)
    (hin : s.inputs = cmdInput 0x00000003#32 :: rest) :
    ∃ t, step s = .next t ∧ ChecksumDone [] t ∧ ChecksumFrame s t ∧ t.inputs = rest := by
  have harrive : s.input.arrive = [] := by rw [input_of_inputs hin, cmdInput]
  refine ⟨csumClearStart (beginStep s), ?_, ⟨accumulated_accClear (beginStep s), rfl, rfl⟩,
    finish_checksumFrame .ok _ _ hp harrive, congrArg List.tail hin⟩
  rw [step_of_cmdInput hp hin, dispatch_csumClear (by decide)]

/-- The step in which the host writes CSUM_ACC with the byte b (R117). -/
theorem step_csumAcc {s : State} {c : List Byte} {b : Byte} {rest : List StepIn} (hp : s.phase = .idle)
    (hin : s.inputs = cmdInput (accWord b) :: rest) (hacc : Accumulated s c) :
    ∃ t, step s = .next t ∧ ChecksumDone (c ++ [b]) t ∧ ChecksumFrame s t ∧ t.inputs = rest := by
  have harrive : s.input.arrive = [] := by rw [input_of_inputs hin, cmdInput]
  refine ⟨csumAccStart b (beginStep s), ?_, ⟨accumulated_snoc (s := beginStep s) b hacc, rfl, rfl⟩,
    finish_checksumFrame .ok _ _ hp harrive, congrArg List.tail hin⟩
  rw [step_of_cmdInput hp hin, dispatch_csumAcc (by simp [accWord]), accWord, cmdArg_cmdWord]

/-- One CSUM_ACC per byte extends the content whose checksum the accumulator holds (R112, R264). -/
theorem run_csumAcc (bs : List Byte) (later : List StepIn) {s : State} {c : List Byte} (hp : s.phase = .idle)
    (hin : s.inputs = bs.map (fun b => cmdInput (accWord b)) ++ later) (hdone : ChecksumDone c s) :
    ∃ t : State, Host.Core.run Sys2Proof.core bs.length s = .next t ∧ ChecksumDone (c ++ bs) t ∧ ChecksumFrame s t ∧
      t.inputs = later := by
  induction bs generalizing s c with
  | nil => exact ⟨s, rfl, by simpa using hdone, checksumFrame_refl s, hin⟩
  | cons b bs ih =>
    obtain ⟨hacc, -, -⟩ := hdone
    obtain ⟨t, hstep, hdone', hframe, hin'⟩ := step_csumAcc hp hin hacc
    obtain ⟨u, hrun, hdone'', hframe', hin''⟩ := ih (hframe.phase.trans hp) hin' hdone'
    exact ⟨u, (run_succ bs.length hstep).trans hrun, by simpa using hdone'', hframe.trans hframe', hin''⟩

/-- Settles O46: the step of CSUM_CLEAR, then the run of the CSUM_ACC steps. -/
theorem checksumByCommands : Obligations.ChecksumByCommands := by
  unfold Obligations.ChecksumByCommands
  intro bs later s hp hin
  have harrived : s.arrived = s.chan := by
    simp [State.arrived, input_of_inputs hin, cmdInput]
  obtain ⟨t, hstep, hdone, hframe, hin'⟩ := step_csumClear hp hin
  obtain ⟨u, hrun, ⟨hacc, hd, hc⟩, hframe', hlater⟩ := run_csumAcc bs later (hframe.phase.trans hp) hin' hdone
  refine ⟨u, (run_succ bs.length hstep).trans hrun, hacc, hd, hc, ?_⟩
  obtain ⟨_, _, _, _, _, _, _, _, _, rfl⟩ := hframe.trans hframe'
  exact ⟨rfl, rfl, ⟨rfl, rfl, rfl, rfl, rfl, rfl⟩, ⟨rfl, rfl, rfl⟩, ⟨rfl, rfl, rfl, rfl, rfl⟩, fun _ => rfl,
    ⟨harrived.symm, rfl⟩, rfl, hlater⟩

end Sys2Proof.Machine
end

section
/-!
PROOFS. The sync family: the outcomes of a SYNC step, and the search for the first marker.
-/
namespace Sys2Proof.Machine

/-! ### The step of phase SYNC -/

/-- The state behind a SYNC step whose byte b slides into the window (R131). -/
def slid (b : Byte) (rest : List Byte) (s : State) : State :=
  { takeByte rest (beginStep s) with winN := true, winB := b }

/-- The state behind a SYNC step whose byte completes the marker (R131). -/
def marked (rest : List Byte) (s : State) : State :=
  { takeByte rest (beginStep s) with winN := false, winB := 0#8, hidx := 0#4, phase := .hdr }

/-- In SYNC a step without an access is `SyncStep` (R201). -/
theorem skipStep_of_syncStep {s u : State} (hr : Runs s) (hp : s.phase = .sync)
    (hu : syncStep s.input (beginStep s) = .ok u) : skipStep s = .next u := by
  refine skipStep_next.2 (.inr ⟨hr, ?_⟩)
  simpa only [phaseStep, beginStep_phase, hp] using hu

theorem skipStep_sync_expired {s : State} (hr : Runs s) (hp : s.phase = .sync) (he : s.input.expired = true) :
    skipStep s = .next (finish .timeoutReached (beginStep s)) :=
  skipStep_of_syncStep hr hp (rxStep_ok.2 (.inl ⟨he, rfl⟩))

theorem skipStep_sync_waits {s : State} (hr : Runs s) (hp : s.phase = .sync) (he : s.input.expired = false)
    (ha : s.arrived = []) : skipStep s = .next (beginStep s) :=
  skipStep_of_syncStep hr hp (rxStep_ok.2 (.inr (.inl ⟨he, ha, rfl⟩)))

/-- A byte before the deadline goes to `syncByte`. -/
theorem skipStep_sync_byte {s : State} {b : Byte} {rest : List Byte} (hr : Runs s) (hp : s.phase = .sync)
    (he : s.input.expired = false) (ha : s.arrived = b :: rest) :
    skipStep s = .next (syncByte b (takeByte rest (beginStep s))) :=
  skipStep_of_syncStep hr hp (rxStep_ok.2 (.inr (.inr ⟨b, rest, he, ha, rfl⟩)))

theorem skipStep_sync_marked {s : State} {b : Byte} {rest : List Byte} (hr : Runs s) (hp : s.phase = .sync)
    (he : s.input.expired = false) (ha : s.arrived = b :: rest)
    (hm : s.winN = true ∧ s.winB = Config.magicB0 ∧ b = Config.magicB1) : skipStep s = .next (marked rest s) := by
  rw [skipStep_sync_byte hr hp he ha]
  rcases syncByte_cases b (takeByte rest (beginStep s)) with ⟨-, -, -, e⟩ | ⟨hno, -⟩
  · exact congrArg Host.Outcome.next e
  · exact absurd hm hno

theorem skipStep_sync_slid {s : State} {b : Byte} {rest : List Byte} (hr : Runs s) (hp : s.phase = .sync)
    (he : s.input.expired = false) (ha : s.arrived = b :: rest)
    (hno : ¬ (s.winN = true ∧ s.winB = Config.magicB0 ∧ b = Config.magicB1)) :
    skipStep s = .next (slid b rest s) := by
  rw [skipStep_sync_byte hr hp he ha]
  rcases syncByte_cases b (takeByte rest (beginStep s)) with ⟨hn, hb, hb', -⟩ | ⟨-, e⟩
  · exact absurd ⟨hn, hb, hb'⟩ hno
  · exact congrArg Host.Outcome.next e

/-- What every outcome of a SYNC step keeps, and the outputs it does not drive (R131, R157, R201). -/
def SyncKeeps (s t : State) : Prop :=
  t.cnt = s.cnt ∧ t.eidx = s.eidx ∧ t.rxValid = s.rxValid ∧ t.ovr = s.ovr ∧ t.txData = 0#8 ∧ t.regRdata = 0#32 ∧
    SameChecksum s t ∧ SameTx s t ∧ SameRx s t ∧ SameMem s t ∧ Advanced s t

/-- The fields a SYNC step writes are the phase, the window, the header counter, DONE, CODE, the channel and the take. -/
theorem syncKeeps_update (phase : Phase) (winN : Bool) (winB : Byte) (hidx : BitVec 4) (done : Bool) (code : Code)
    (chan : List Byte) (rxTake : Bool) (s : State) :
    SyncKeeps s { beginStep s with phase := phase, winN := winN, winB := winB, hidx := hidx, done := done, code := code,
                                   chan := chan, rxTake := rxTake } :=
  ⟨rfl, rfl, rfl, rfl, rfl, rfl, ⟨rfl, rfl⟩, ⟨rfl, rfl, rfl⟩, ⟨rfl, rfl, rfl, rfl, rfl⟩, fun _ => rfl, ⟨rfl, rfl⟩⟩

theorem slid_keeps (b : Byte) (rest : List Byte) (s : State) : SyncKeeps s (slid b rest s) := syncKeeps_update ..

theorem marked_keeps (rest : List Byte) (s : State) : SyncKeeps s (marked rest s) := syncKeeps_update ..

theorem beginStep_unchanged (s : State) : Unchanged s (beginStep s) :=
  ⟨⟨rfl, rfl, rfl, rfl, rfl, rfl⟩, ⟨rfl, rfl⟩, ⟨rfl, rfl, rfl, rfl⟩, ⟨rfl, rfl, rfl⟩, ⟨rfl, rfl, rfl, rfl, rfl⟩,
    fun _ => rfl, ⟨rfl, rfl⟩, ⟨rfl, rfl, rfl, rfl⟩, ⟨rfl, rfl⟩⟩

/-- Settles O21: the deadline, no byte, a byte that completes the marker and one that does not are the four cases. -/
theorem syncStepOutcomes : Obligations.SyncStep := by
  unfold Obligations.SyncStep
  intro we a wd s hr hp
  cases he : s.input.expired with
  | true =>
    exact ⟨_, skipStep_sync_expired hr hp he,
      fun _ => ⟨rfl, rfl, rfl, rfl, rfl, rfl, ⟨rfl, rfl⟩, ⟨rfl, rfl, rfl, rfl⟩⟩, nofun, nofun, syncKeeps_update ..⟩
  | false =>
    cases ha : s.arrived with
    | nil => exact ⟨_, skipStep_sync_waits hr hp he ha, nofun, fun _ _ => beginStep_unchanged s, nofun,
        syncKeeps_update ..⟩
    | cons b rest =>
      by_cases hm : s.winN = true ∧ s.winB = 0xBA#8 ∧ b = 0xBA#8
      · refine ⟨_, skipStep_sync_marked hr hp he ha hm, nofun, nofun, fun _ _ _ h => ?_, marked_keeps rest s⟩
        cases h
        rw [if_pos hm]
        exact ⟨rfl, rfl, rfl, rfl, rfl, rfl, rfl, rfl, rfl, rfl⟩
      · refine ⟨_, skipStep_sync_slid hr hp he ha hm, nofun, nofun, fun _ _ _ h => ?_, slid_keeps b rest s⟩
        cases h
        rw [if_neg hm]
        exact ⟨rfl, rfl, rfl, rfl, rfl, rfl, hp, rfl, rfl, rfl⟩

/-! ### The search for the first marker -/

/-- A step whose listed input is quiet is the step without an access, on the channel as it stands. -/
theorem step_of_quiet {s : State} {later : List StepIn} (h : s.inputs = StepIn.quiet :: later) :
    Runs s ∧ s.input.expired = false ∧ s.arrived = s.chan ∧ step s = skipStep s := by
  have hi : s.input = StepIn.quiet := input_of_inputs h
  refine ⟨congrArg StepIn.rst hi, congrArg StepIn.expired hi, ?_, step_of_noAccess ?_⟩
  · rw [State.arrived, hi]
    exact List.append_nil s.chan
  · rw [hi]
    exact portSel_portSkip

theorem window_getLast? {s : State} {b : Byte} (h : s.window.getLast? = some b) : s.winN = true ∧ s.winB = b := by
  unfold State.window at h
  cases hw : s.winN with
  | false => simp [hw] at h
  | true => simpa [hw] using h

/-- Where the window and the bytes l hold no marker but end in its first byte, the search slides over l and matches at
the byte behind it; only the last match shows in the state (R131 to R134). -/
theorem run_sync_marked (l rest : List Byte) (later : List StepIn) {s : State} (hp : s.phase = .sync)
    (hno : hasMarker (s.window ++ l) = false) (hlast : (s.window ++ l).getLast? = some Config.magicB0)
    (hc : s.chan = l ++ Config.magicB1 :: rest)
    (hin : s.inputs = List.replicate (l.length + 1) StepIn.quiet ++ later) :
    Host.Core.run Sys2Proof.core (l.length + 1) s = .next { marked rest s with inputs := later } := by
  induction l generalizing s with
  | nil =>
    obtain ⟨hr, he, harr, hskip⟩ := step_of_quiet hin
    obtain ⟨hn, hb⟩ := window_getLast? (by simpa using hlast)
    have hstep : step s = .next (marked rest s) :=
      hskip.trans (skipStep_sync_marked hr hp he (harr.trans hc) ⟨hn, hb, rfl⟩)
    have hinputs : later = (marked rest s).inputs := (congrArg List.tail hin).symm
    rw [hinputs]
    exact run_succ 0 hstep
  | cons b l ih =>
    obtain ⟨hr, he, harr, hskip⟩ := step_of_quiet hin
    obtain ⟨hmiss, hno'⟩ := noMarker_next hno
    have hstep : step s = .next (slid b (l ++ Config.magicB1 :: rest) s) :=
      hskip.trans (skipStep_sync_slid hr hp he (harr.trans hc) hmiss)
    have hlast' : (b :: l).getLast? = some Config.magicB0 := by
      simpa [List.getLast?_append] using hlast
    exact (run_succ _ hstep).trans (ih hp hno' hlast' rfl (congrArg List.tail hin))

/-- Settles O52: the search over the noise and the marker's first byte, from the empty window. -/
theorem syncFindsFirstMarker : Obligations.SyncFindsFirstMarker := by
  unfold Obligations.SyncFindsFirstMarker
  intro noise rest later s hp hn hno hc hin
  have hwin : s.window = [] := by simp [State.window, hn]
  have hlen : (noise ++ [0xBA#8]).length + 1 = noise.length + 2 := by simp
  have hrun := run_sync_marked (noise ++ [0xBA#8]) rest later hp (by rwa [hwin, List.nil_append])
    (by simp [hwin, Config.magicB0]) (by simp [hc, Config.magicB1]) (by rw [hlen, hin])
  rw [hlen] at hrun
  exact ⟨_, hrun, rfl, rfl, rfl, rfl, rfl, rfl, rfl, rfl, ⟨rfl, rfl, rfl, rfl⟩, ⟨rfl, rfl⟩, ⟨rfl, rfl, rfl⟩,
    ⟨rfl, rfl, rfl, rfl, rfl⟩, fun _ => rfl, rfl, rfl⟩

end Sys2Proof.Machine
end

section
/-!
PROOFS. The decode family: the start of a DECODE, the steps of its phases, its end at the deadline, and the whole
command over noise and a frame.
-/
namespace Sys2Proof.Machine

/-! ### The start step -/

/-- Settles O7: in IDLE the command step is `DecodeStart()` on the state at the start of the step. -/
theorem decodeStartsSearch : Obligations.DecodeStartsSearch := by
  unfold Obligations.DecodeStartsSearch
  intro lo arg hi s hr hp
  exact ⟨decodeStart (beginStep s), commandStep_of_idle hr hp, rfl, rfl, rfl, rfl, rfl, rfl, rfl, rfl, rfl, rfl, rfl,
    rfl, rfl, rfl, rfl, rfl, rfl, rfl, ⟨rfl, rfl, rfl⟩, fun _ => rfl, ⟨rfl, rfl⟩, ⟨rfl, rfl, rfl, rfl⟩, ⟨rfl, rfl⟩⟩

/-! ### What the phases of DECODE share -/

theorem phaseStep_hdr {inp : StepIn} {s : State} (hp : s.phase = .hdr) :
    phaseStep inp s = rxStep (fun b t => .ok (hdrByte b t)) inp s := by
  simp only [phaseStep, hp, hdrStep]

theorem phaseStep_body {inp : StepIn} {s : State} (hp : s.phase = .body) :
    phaseStep inp s = rxStep bodyByte inp s := by
  simp only [phaseStep, hp, bodyStep]

/-- While a DECODE runs the sequencer's action is a receiving step (R131, R151, R154). -/
theorem phaseStep_of_decoding {s : State} (hd : s.decoding = true) :
    ∃ f, ∀ inp, phaseStep inp s = rxStep f inp s := by
  cases hp : s.phase
  case sync => exact ⟨_, fun inp => by simp only [phaseStep, hp, syncStep]; rfl⟩
  case hdr => exact ⟨_, fun inp => phaseStep_hdr hp⟩
  case body => exact ⟨_, fun inp => phaseStep_body hp⟩
  all_goals simp [State.decoding, hp] at hd

theorem phaseStep_deadline {inp : StepIn} {s : State} (hd : s.decoding = true) (he : inp.expired = true) :
    phaseStep inp s = .ok (finish .timeoutReached s) := by
  obtain ⟨f, hf⟩ := phaseStep_of_decoding hd
  rw [hf]
  exact rxStep_ok.2 (.inl ⟨he, rfl⟩)

theorem skipStep_of_phaseStep {s u : State} (hr : Runs s) (hu : phaseStep s.input (beginStep s) = .ok u) :
    skipStep s = .next u := skipStep_next.2 (.inr ⟨hr, hu⟩)

theorem skipStep_deadline {s : State} (hr : Runs s) (hd : s.decoding = true) (he : s.input.expired = true) :
    skipStep s = .next (finish .timeoutReached (beginStep s)) :=
  skipStep_of_phaseStep hr (phaseStep_deadline (s := beginStep s) hd he)

theorem skipStep_waits {s : State} (hr : Runs s) (hd : s.decoding = true) (he : s.input.expired = false)
    (ha : s.arrived = []) : skipStep s = .next (beginStep s) := by
  obtain ⟨f, hf⟩ := phaseStep_of_decoding (s := beginStep s) hd
  refine skipStep_of_phaseStep hr ?_
  rw [hf]
  exact rxStep_ok.2 (.inr (.inl ⟨he, ha, rfl⟩))

/-! ### The deadline -/

theorem ne_idle_of_decoding {s : State} (hd : s.decoding = true) : s.phase ≠ .idle := fun hp => by
  simp [State.decoding, hp] at hd

/-- A host write leaves the entries of RXBUF as they are (R29, R203). -/
theorem hostWrite_read_rxbuf (e : Bool) (i : Index) (w : Word) (u : State) {a : Nat} (ha : 0x100 ≤ a) :
    (hostWrite e i w u).mem.read a = u.mem.read a := by
  rcases hostWrite_mem e i w u with hmem | ⟨-, hi, hmem⟩ <;> rw [hmem]
  exact Memory.read_write_other _ _ (by simp only [txIndex]; omega)

/-- While a command runs a completing step is the sequencer's action, and the access beside it keeps RXBUF. -/
theorem step_of_busy {s t u : State} (hr : Runs s) (hp : s.phase ≠ .idle)
    (hu : phaseStep s.input (beginStep s) = .ok u) (h : step s = .next t) :
    AccessFrame u t ∧ ∀ a, 0x100 ≤ a → t.mem.read a = u.mem.read a := by
  rcases step_next h with ⟨hrst, -⟩ | ⟨-, ⟨hidle, -⟩ | ⟨u', hu', haccess⟩⟩
  · exact absurd (hr.symm.trans hrst) (by decide)
  · exact absurd hidle hp
  · obtain rfl : u = u' := by simpa [hu] using hu'
    rcases haccess with ⟨-, rfl⟩ | ⟨_, v, -, rfl⟩ | ⟨a, w, -, rfl⟩ | rfl
    · exact ⟨accessFrame_setOvr u, fun _ _ => rfl⟩
    · exact ⟨accessFrame_read u v, fun _ _ => rfl⟩
    · exact ⟨accessFrame_hostWrite _ a w u, fun _ => hostWrite_read_rxbuf _ a w u⟩
    · exact ⟨accessFrame_refl _, fun _ _ => rfl⟩

/-- Settles O24: the sequencer's action is `Finish`, and no access changes what the statement lists. -/
theorem deadlineEndsDecode : Obligations.DeadlineEndsDecode := by
  unfold Obligations.DeadlineEndsDecode
  intro s t hr hd he h
  have hend := phaseStep_deadline (s := beginStep s) hd he
  obtain ⟨⟨_, _, _, _, _, _, rfl⟩, hmem⟩ := step_of_busy hr (ne_idle_of_decoding hd) hend h
  exact ⟨rfl, rfl, rfl, rfl, ⟨rfl, rfl⟩, ⟨rfl, rfl⟩, ⟨rfl, rfl, rfl, rfl, rfl⟩, rfl, hmem⟩

/-! ### The step of phase HDR -/

theorem skipStep_hdr_byte {s : State} {b : Byte} {rest : List Byte} (hr : Runs s) (hp : s.phase = .hdr)
    (he : s.input.expired = false) (ha : s.arrived = b :: rest) :
    skipStep s = .next (hdrByte b (takeByte rest (beginStep s))) := by
  refine skipStep_of_phaseStep hr ?_
  rw [phaseStep_hdr (s := beginStep s) hp]
  exact rxStep_ok.2 (.inr (.inr ⟨b, rest, he, ha, rfl⟩))

/-- What every outcome of a HDR step keeps, and the outputs it does not drive (R151, R157, R201). -/
def HdrKeeps (s t : State) : Prop :=
  t.winN = s.winN ∧ t.winB = s.winB ∧ t.eidx = s.eidx ∧ t.rxValid = s.rxValid ∧ t.ovr = s.ovr ∧ t.txData = 0#8 ∧
    t.regRdata = 0#32 ∧ SameChecksum s t ∧ SameTx s t ∧ SameMem s t ∧ Advanced s t

/-- The fields a HDR step writes are the phase, its counters, DONE, CODE, the RX registers, the channel and the take. -/
theorem hdrKeeps_update (phase : Phase) (hidx : BitVec 4) (cnt : BitVec 9) (done : Bool) (code : Code)
    (rxVersion rxMeta rxType : Byte) (rxlen : BitVec 64) (rxCsum : Word) (chan : List Byte) (rxTake : Bool)
    (s : State) :
    HdrKeeps s
      { beginStep s with
        phase := phase, hidx := hidx, cnt := cnt, done := done, code := code, rxVersion := rxVersion
        rxMeta := rxMeta, rxType := rxType, rxlen := rxlen, rxCsum := rxCsum, chan := chan, rxTake := rxTake } :=
  ⟨rfl, rfl, rfl, rfl, rfl, rfl, rfl, ⟨rfl, rfl⟩, ⟨rfl, rfl, rfl⟩, fun _ => rfl, ⟨rfl, rfl⟩⟩

theorem hdrByte_keeps (b : Byte) (rest : List Byte) (s : State) :
    HdrKeeps s (hdrByte b (takeByte rest (beginStep s))) := by
  rcases hdrByte_cases b (takeByte rest (beginStep s)) with ⟨-, e⟩ | ⟨-, e⟩ <;> rw [e, placeHeaderByte_eq]
  · rcases checkLength_cases _ with ⟨-, e⟩ | ⟨-, e⟩ | ⟨-, -, e⟩ <;> rw [e] <;> exact hdrKeeps_update ..
  · exact hdrKeeps_update ..

/-- The byte b stands at header position `s.hidx` of its field, and every other header byte is as it was (R81, R152). -/
def HeaderBytePlaced (b : Byte) (s t : State) : Prop :=
  t.rxVersion = (if s.hidx = 0#4 then b else s.rxVersion) ∧ t.rxMeta = (if s.hidx = 1#4 then b else s.rxMeta) ∧
  t.rxType = (if s.hidx = 2#4 then b else s.rxType) ∧
  (∀ k, k < 8 → t.rxlen.extractLsb' (8 * k) 8 =
    if 3 ≤ s.hidx.toNat ∧ s.hidx.toNat ≤ 2 + s.params.len ∧
        k = bytePos s.params.byteOrder s.params.len (s.hidx.toNat - 3) then b
    else s.rxlen.extractLsb' (8 * k) 8) ∧
  (∀ k, k < 4 → t.rxCsum.extractLsb' (8 * k) 8 =
    if 3 + s.params.len ≤ s.hidx.toNat ∧
        k = bytePos s.params.byteOrder 4 (s.hidx.toNat - 3 - s.params.len) then b
    else s.rxCsum.extractLsb' (8 * k) 8)

theorem placeHeaderByte_placed (b : Byte) {s : State} (h : s.hidx.toNat < 7 + s.params.len) :
    HeaderBytePlaced b s (placeHeaderByte s.hidx.toNat b s) := by
  have hlen := len_range s.params
  have hidx : ∀ i : BitVec 4, s.hidx.toNat = i.toNat ↔ s.hidx = i := fun i => BitVec.toNat_inj
  refine ⟨?_, ?_, ?_, fun k hk => ?_, fun k hk => ?_⟩
  · exact (placeHeaderByte_rxVersion ..).trans (by simp only [← hidx]; rfl)
  · exact (placeHeaderByte_rxMeta ..).trans (by simp only [← hidx]; rfl)
  · exact (placeHeaderByte_rxType ..).trans (by simp only [← hidx]; rfl)
  · rw [placeHeaderByte_rxlen]
    by_cases hpos : 3 ≤ s.hidx.toNat ∧ s.hidx.toNat ≤ 2 + s.params.len
    · have hj : s.hidx.toNat - 3 < s.params.len := by omega
      have hb := bytePos_lt s.params.byteOrder hj
      rw [if_pos hpos, byte_placeByte _ _ _ _ _ _ (by omega) (by omega)]
      simp only [hpos, hj, true_and]
    · rw [if_neg hpos, if_neg fun hc => hpos ⟨hc.1, hc.2.1⟩]
  · rw [placeHeaderByte_rxCsum]
    by_cases hpos : 3 + s.params.len ≤ s.hidx.toNat
    · have hj : s.hidx.toNat - 3 - s.params.len < 4 := by omega
      have hb := bytePos_lt s.params.byteOrder hj
      rw [if_pos hpos, byte_placeByte _ _ _ _ _ _ (by omega) (by omega)]
      simp only [hpos, hj, true_and]
    · rw [if_neg hpos, if_neg fun hc => hpos hc.1]

theorem checkLength_sameRx (s : State) : SameRx s (checkLength s) := by
  rcases checkLength_cases s with ⟨-, e⟩ | ⟨-, e⟩ | ⟨-, -, e⟩ <;> rw [e] <;> exact ⟨rfl, rfl, rfl, rfl, rfl⟩

/-- What HDR does with a byte beyond placing it leaves the RX registers alone (R151, R153). -/
theorem hdrByte_sameRx (b : Byte) (s : State) : SameRx (placeHeaderByte s.hidx.toNat b s) (hdrByte b s) := by
  rcases hdrByte_cases b s with ⟨-, e⟩ | ⟨-, e⟩ <;> rw [e]
  · exact checkLength_sameRx _
  · exact ⟨rfl, rfl, rfl, rfl, rfl⟩

theorem hdrByte_placed (b : Byte) {s : State} (h : s.hidx.toNat < 7 + s.params.len) :
    HeaderBytePlaced b s (hdrByte b s) := by
  obtain ⟨hv, hm, ht, hl, hc⟩ := hdrByte_sameRx b s
  unfold HeaderBytePlaced
  rw [hv, hm, ht, hl, hc]
  exact placeHeaderByte_placed b h

/-- Where the sequencer goes after a header byte: the next position, or after the last one the length check's three
ends (R151, R153). -/
def HeaderByteCounted (s t : State) : Prop :=
  if s.hidx.toNat = 6 + s.params.len then
    t.hidx = s.hidx ∧
    if s.rxlen = 0#64 then t.phase = .idle ∧ t.done = true ∧ t.code = .malformed ∧ t.cnt = s.cnt
    else if 256 < s.rxlen.toNat then
      t.phase = .idle ∧ t.done = true ∧ t.code = .contentLengthExceeded ∧ t.cnt = s.cnt
    else t.phase = .body ∧ t.cnt = 0#9 ∧ t.done = s.done ∧ t.code = s.code
  else t.phase = .hdr ∧ t.hidx = s.hidx + 1#4 ∧ t.cnt = s.cnt ∧ t.done = s.done ∧ t.code = s.code

/-- At the last position, which is CHECKSUM's, the length is already received. -/
theorem hdrByte_counted (b : Byte) {s : State} (hp : s.phase = .hdr) : HeaderByteCounted s (hdrByte b s) := by
  unfold HeaderByteCounted
  rcases hdrByte_cases b s with ⟨hlast, e⟩ | ⟨hmore, e⟩ <;> rw [e]
  · simp only [Params.hlen] at hlast
    have hrxlen : (placeHeaderByte s.hidx.toNat b s).rxlen = s.rxlen := by
      rw [placeHeaderByte_rxlen, if_neg (by omega)]
    rw [if_pos (by omega)]
    rcases checkLength_cases (placeHeaderByte s.hidx.toNat b s) with ⟨hzero, e⟩ | ⟨hlong, e⟩ | ⟨hpos, hmax, e⟩ <;>
      rw [e, placeHeaderByte_eq]
    · rw [hrxlen] at hzero
      rw [if_pos hzero]
      exact ⟨rfl, rfl, rfl, rfl, rfl⟩
    · have hlong' : 256 < s.rxlen.toNat := hrxlen ▸ hlong
      rw [if_neg fun h0 => by simp [h0] at hlong', if_pos hlong']
      exact ⟨rfl, rfl, rfl, rfl, rfl⟩
    · have hmax' : ¬ 256 < s.rxlen.toNat := Nat.not_lt.2 (hrxlen ▸ hmax)
      rw [hrxlen] at hpos
      rw [if_neg fun h0 => by simp [h0] at hpos, if_neg hmax']
      exact ⟨rfl, rfl, rfl, rfl, rfl⟩
  · simp only [Params.hlen] at hmore
    rw [if_neg (by omega), placeHeaderByte_eq]
    exact ⟨hp, rfl, rfl, rfl, rfl⟩

/-- Settles O22: the deadline, no byte, and a byte, which is placed and counted. -/
theorem hdrStepOutcomes : Obligations.HdrStep := by
  unfold Obligations.HdrStep
  intro we a wd s hr hp hlt
  have hd : s.decoding = true := by simp [State.decoding, hp]
  cases he : s.input.expired with
  | true =>
    exact ⟨_, skipStep_deadline hr hd he, fun _ => ⟨rfl, rfl, rfl, rfl, rfl, ⟨rfl, rfl⟩, ⟨rfl, rfl, rfl, rfl⟩,
      ⟨rfl, rfl, rfl, rfl, rfl⟩⟩, nofun, nofun, hdrKeeps_update ..⟩
  | false =>
    cases ha : s.arrived with
    | nil => exact ⟨_, skipStep_waits hr hd he ha, nofun, fun _ _ => beginStep_unchanged s, nofun, hdrKeeps_update ..⟩
    | cons b rest =>
      refine ⟨_, skipStep_hdr_byte hr hp he ha, nofun, nofun, fun _ _ _ h => ?_, hdrByte_keeps b rest s⟩
      cases h
      obtain ⟨htake, hchan, hvalid, -, hsent⟩ := hdrByte_samePorts b (takeByte rest (beginStep s))
      obtain ⟨hv, hm, ht, hl, hc⟩ := hdrByte_placed b (s := takeByte rest (beginStep s)) hlt
      exact ⟨hchan, htake, hsent, hvalid, hv, hm, ht, hl, hc, hdrByte_counted b (s := takeByte rest (beginStep s)) hp⟩

/-! ### The step of phase BODY -/

/-- RXBUF[cnt] holds the byte b, which is accumulated and counted (R154). -/
def storeContent (b : Byte) (s : State) : State := countContent (accByte b (storeRx s.cnt.toNat b s))

/-- What BODY does with a byte: after the last one follows the comparison (R154). -/
def contentByte (b : Byte) (s : State) : State :=
  if s.cnt.toNat + 1 = s.rxlen.toNat then compareChecksum (storeContent b s) else storeContent b s

/-- With RXBUF[cnt] in the buffer `bodyByte` answers that state. -/
theorem bodyByte_of_lt (b : Byte) {s : State} (h : s.cnt.toNat < 256) : bodyByte b s = .ok (contentByte b s) := by
  refine bodyByte_ok.2 ⟨h, ?_⟩
  unfold contentByte
  by_cases hlast : s.cnt.toNat + 1 = s.rxlen.toNat
  · exact .inl ⟨hlast, if_pos hlast⟩
  · exact .inr ⟨hlast, if_neg hlast⟩

theorem skipStep_body_byte {s : State} {b : Byte} {rest : List Byte} (hr : Runs s) (hp : s.phase = .body)
    (hc : s.cnt.toNat < 256) (he : s.input.expired = false) (ha : s.arrived = b :: rest) :
    skipStep s = .next (contentByte b (takeByte rest (beginStep s))) := by
  refine skipStep_of_phaseStep hr ?_
  rw [phaseStep_body (s := beginStep s) hp]
  exact rxStep_ok.2 (.inr (.inr ⟨b, rest, he, ha, bodyByte_of_lt b hc⟩))

/-- What every outcome of a BODY step keeps, and the outputs it does not drive (R154, R157, R201). -/
def BodyKeeps (s t : State) : Prop :=
  t.winN = s.winN ∧ t.winB = s.winB ∧ t.hidx = s.hidx ∧ t.eidx = s.eidx ∧ t.ovr = s.ovr ∧ t.txData = 0#8 ∧
    t.regRdata = 0#32 ∧ SameTx s t ∧ SameRx s t ∧ Advanced s t

/-- The fields a BODY step writes are the phase, the content counter, the accumulator, DONE, RX_VALID, CODE, RXBUF, the
channel and the take. -/
theorem bodyKeeps_update (phase : Phase) (cnt : BitVec 9) (acc : Word) (pos : BitVec 2) (done rxValid : Bool)
    (code : Code) (mem : Memory) (chan : List Byte) (rxTake : Bool) (s : State) :
    BodyKeeps s
      { beginStep s with
        phase := phase, cnt := cnt, acc := acc, pos := pos, done := done, rxValid := rxValid, code := code
        mem := mem, chan := chan, rxTake := rxTake } :=
  ⟨rfl, rfl, rfl, rfl, rfl, rfl, rfl, ⟨rfl, rfl, rfl⟩, ⟨rfl, rfl, rfl, rfl, rfl⟩, ⟨rfl, rfl⟩⟩

/-- What a content byte leads to: it is stored and accumulated, and after the last one the two ends of the comparison
follow (R154, R155). -/
def ContentByteTaken (b : Byte) (s t : State) : Prop :=
  (∀ k, t.mem.read k = if k = 0x100 + s.cnt.toNat then some b else s.mem.read k) ∧
  t.acc = s.acc ^^^ (b.setWidth 32 <<< s.pos.toNat) ∧ t.pos.toNat = (s.pos.toNat + 1) % 4 ∧
  t.cnt.toNat = s.cnt.toNat + 1 ∧
  if s.cnt.toNat + 1 = s.rxlen.toNat then
    t.phase = .idle ∧ t.done = true ∧
    if t.acc = s.rxCsum then t.code = .ok ∧ t.rxValid = true
    else t.code = .crcMismatch ∧ t.rxValid = s.rxValid
  else t.phase = .body ∧ t.done = s.done ∧ t.code = s.code ∧ t.rxValid = s.rxValid

theorem contentByte_taken (b : Byte) {s : State} (hp : s.phase = .body) (hc : s.cnt.toNat < 256) :
    ContentByteTaken b s (contentByte b s) := by
  have hmem : ∀ k, (storeContent b s).mem.read k = if k = 0x100 + s.cnt.toNat then some b else s.mem.read k := fun k =>
    Memory.read_write s.mem (rxIndex s.cnt.toNat) k b
  have hpos : (s.pos + 1#2).toNat = (s.pos.toNat + 1) % 4 := by simp [BitVec.toNat_add]
  have hcnt : (s.cnt + 1#9).toNat = s.cnt.toNat + 1 := toNat_count (by omega)
  unfold ContentByteTaken contentByte
  by_cases hlast : s.cnt.toNat + 1 = s.rxlen.toNat
  · rw [if_pos hlast, if_pos hlast]
    rcases compareChecksum_cases (storeContent b s) with ⟨heq, e⟩ | ⟨hne, e⟩ <;> rw [e]
    · exact ⟨hmem, rfl, hpos, hcnt, rfl, rfl, Eq.mpr (if_pos heq) ⟨rfl, rfl⟩⟩
    · exact ⟨hmem, rfl, hpos, hcnt, rfl, rfl, Eq.mpr (if_neg hne) ⟨rfl, rfl⟩⟩
  · rw [if_neg hlast, if_neg hlast]
    exact ⟨hmem, rfl, hpos, hcnt, hp, rfl, rfl, rfl⟩

theorem compareChecksum_keeps {s t : State} (h : BodyKeeps s t) : BodyKeeps s (compareChecksum t) := by
  rcases compareChecksum_cases t with ⟨-, e⟩ | ⟨-, e⟩ <;> rw [e] <;> exact h

theorem contentByte_keeps (b : Byte) (rest : List Byte) (s : State) :
    BodyKeeps s (contentByte b (takeByte rest (beginStep s))) := by
  have hstore : BodyKeeps s (storeContent b (takeByte rest (beginStep s))) := bodyKeeps_update ..
  unfold contentByte
  split
  · exact compareChecksum_keeps hstore
  · exact hstore

theorem contentByte_samePorts (b : Byte) (s : State) : SamePorts s (contentByte b s) := by
  unfold contentByte
  split
  · exact compareChecksum_samePorts (storeContent b s)
  · exact ⟨rfl, rfl, rfl, rfl, rfl⟩

/-- Settles O23: the deadline, no byte, and a byte, which is stored and accumulated. -/
theorem bodyStepOutcomes : Obligations.BodyStep := by
  unfold Obligations.BodyStep
  intro we a wd s hr hp hcnt
  have hd : s.decoding = true := by simp [State.decoding, hp]
  cases he : s.input.expired with
  | true =>
    exact ⟨_, skipStep_deadline hr hd he, fun _ => ⟨rfl, rfl, rfl, rfl, rfl, ⟨rfl, rfl⟩, fun _ => rfl, ⟨rfl, rfl⟩,
      ⟨rfl, rfl, rfl, rfl⟩⟩, nofun, nofun, bodyKeeps_update ..⟩
  | false =>
    cases ha : s.arrived with
    | nil => exact ⟨_, skipStep_waits hr hd he ha, nofun, fun _ _ => beginStep_unchanged s, nofun, bodyKeeps_update ..⟩
    | cons b rest =>
      refine ⟨_, skipStep_body_byte hr hp hcnt he ha, nofun, nofun, fun _ _ _ h => ?_, contentByte_keeps b rest s⟩
      cases h
      obtain ⟨htake, hchan, hvalid, -, hsent⟩ := contentByte_samePorts b (takeByte rest (beginStep s))
      exact ⟨hchan, htake, hsent, hvalid, contentByte_taken b (s := takeByte rest (beginStep s)) hp hcnt⟩

end Sys2Proof.Machine
end

section
/-!
PROOFS. The decode family, whole commands: a DECODE over noise and a header, and over the content that follows.
-/
namespace Sys2Proof.Machine

/-! ### The bytes of a header -/

/-- The fields of a header (R81). -/
structure Header where
  version : Byte
  metadata : Byte
  type : Byte
  len : BitVec 64
  sum : Word

/-- The header's bytes in wire order. -/
def Header.bytes (p : Params) (h : Header) : List Byte := wireHeader p h.version h.metadata h.type h.len h.sum

/-- The byte at header position k, by the field that stands there (R81). -/
def Header.byteAt (p : Params) (h : Header) (k : Nat) : Byte :=
  match hdrField p k with
  | .version => h.version
  | .metadata => h.metadata
  | .type => h.type
  | .len j => fieldByte p.byteOrder p.len h.len j
  | .csum j => fieldByte p.byteOrder 4 h.sum j

theorem Header.byteAt_len {p : Params} {j : Nat} (hj : j < p.len) (h : Header) :
    h.byteAt p (3 + j) = fieldByte p.byteOrder p.len h.len j := by
  have hfield : hdrField p (3 + j) = .len j := by
    unfold hdrField
    rw [if_neg (by omega), if_neg (by omega), if_neg (by omega), if_pos (by omega), Nat.add_sub_cancel_left]
  simp only [Header.byteAt, hfield]

theorem Header.byteAt_csum (p : Params) (j : Nat) (h : Header) :
    h.byteAt p (3 + p.len + j) = fieldByte p.byteOrder 4 h.sum j := by
  have hfield : hdrField p (3 + p.len + j) = .csum j := by
    unfold hdrField
    rw [if_neg (by omega), if_neg (by omega), if_neg (by omega), if_neg (by omega), Nat.add_assoc,
      Nat.add_sub_cancel_left, Nat.add_sub_cancel_left]
  simp only [Header.byteAt, hfield]

/-- `byteAt` lists the bytes of R81. -/
theorem Header.bytes_eq_map (p : Params) (h : Header) : h.bytes p = (List.range p.hlen).map (h.byteAt p) := by
  have hlen : (List.range p.len).map (fun j => h.byteAt p (3 + j)) = field p.byteOrder p.len h.len :=
    List.map_congr_left fun j hj => h.byteAt_len (List.mem_range.1 hj)
  have hsum : (List.range 4).map (fun j => h.byteAt p (3 + p.len + j)) = field p.byteOrder 4 h.sum :=
    List.map_congr_left fun j _ => h.byteAt_csum p j
  rw [show p.hlen = 3 + p.len + 4 by simp only [Params.hlen]; omega, List.range_add, List.range_add]
  simp only [List.map_append, List.map_map, Function.comp_def, hlen, hsum]
  rfl

theorem Header.bytes_drop {p : Params} {k : Nat} (hk : k < p.hlen) (h : Header) :
    (h.bytes p).drop k = h.byteAt p k :: (h.bytes p).drop (k + 1) := by
  have hlength : k < (h.bytes p).length := by simpa [h.bytes_eq_map] using hk
  rw [List.drop_eq_getElem_cons hlength]
  simp [h.bytes_eq_map]

/-! ### The header in the RX registers -/

/-- s in HDR at the position i, with the first k bytes of the header h received and the others at the head of the
channel, before as many quiet steps. -/
def headerRead (h : Header) (rest : List Byte) (later : List StepIn) (s : State) (i : BitVec 4) (k : Nat) : State :=
  { s with
    phase := .hdr
    hidx := i
    rxVersion := if 0 < k then h.version else 0#8
    rxMeta := if 1 < k then h.metadata else 0#8
    rxType := if 2 < k then h.type else 0#8
    rxlen := placedBytes s.params.byteOrder s.params.len h.len (min (k - 3) s.params.len)
    rxCsum := placedBytes s.params.byteOrder 4 h.sum (k - 3 - s.params.len)
    rxTake := true
    txValid := false
    txData := 0#8
    regRdata := 0#32
    chan := (h.bytes s.params).drop k ++ rest
    inputs := List.replicate (s.params.hlen - k) StepIn.quiet ++ later }

/-- The byte at header position k is the next of CONTENT_LENGTH, or leaves what is placed of it as it is. -/
theorem placedBytes_len_succ (p : Params) (h : Header) (k : Nat) :
    (if 3 ≤ k ∧ k ≤ 2 + p.len then
        placeByte p.byteOrder p.len (k - 3) (h.byteAt p k) (placedBytes p.byteOrder p.len h.len (min (k - 3) p.len))
      else placedBytes p.byteOrder p.len h.len (min (k - 3) p.len)) =
      placedBytes p.byteOrder p.len h.len (min (k + 1 - 3) p.len) := by
  by_cases hpos : 3 ≤ k ∧ k ≤ 2 + p.len
  · obtain ⟨j, rfl⟩ := Nat.exists_eq_add_of_le hpos.1
    have hj : j < p.len := by omega
    rw [if_pos hpos, h.byteAt_len hj, show 3 + j - 3 = j by omega, show min j p.len = j by omega, ← placedBytes_succ,
      show min (3 + j + 1 - 3) p.len = j + 1 by omega]
  · rw [if_neg hpos, show min (k + 1 - 3) p.len = min (k - 3) p.len by omega]

/-- The same for CHECKSUM. -/
theorem placedBytes_csum_succ (p : Params) (h : Header) (k : Nat) :
    (if 3 + p.len ≤ k then
        placeByte p.byteOrder 4 (k - 3 - p.len) (h.byteAt p k) (placedBytes p.byteOrder 4 h.sum (k - 3 - p.len))
      else placedBytes p.byteOrder 4 h.sum (k - 3 - p.len)) =
      placedBytes p.byteOrder 4 h.sum (k + 1 - 3 - p.len) := by
  by_cases hpos : 3 + p.len ≤ k
  · obtain ⟨j, rfl⟩ := Nat.exists_eq_add_of_le hpos
    rw [if_pos hpos, h.byteAt_csum p j, show 3 + p.len + j - 3 - p.len = j by omega, ← placedBytes_succ,
      show 3 + p.len + j + 1 - 3 - p.len = j + 1 by omega]
  · rw [if_neg hpos, show k + 1 - 3 - p.len = k - 3 - p.len by omega]

/-- A one-byte field at header position n, of which b is the byte. -/
theorem byteField_succ {k n : Nat} {b x : Byte} (hb : k = n → x = b) :
    (if k = n then x else if n < k then b else 0#8) = if n < k + 1 then b else 0#8 := by
  by_cases hk : k = n
  · rw [if_pos hk, if_pos (by omega), hb hk]
  · simp only [if_neg hk, show n < k + 1 ↔ n < k by omega]

section
variable {h : Header} {rest : List Byte} {later : List StepIn} {s : State} {i : BitVec 4} {k : Nat}

/-- The next header byte, placed in its field (R152). -/
theorem placeHeaderByte_headerRead (hk : k < s.params.hlen) :
    placeHeaderByte k (h.byteAt s.params k)
        (takeByte ((h.bytes s.params).drop (k + 1) ++ rest) (beginStep (headerRead h rest later s i k))) =
      headerRead h rest later s i (k + 1) := by
  have hinputs : (List.replicate (s.params.hlen - k) StepIn.quiet ++ later).tail =
      List.replicate (s.params.hlen - (k + 1)) StepIn.quiet ++ later := by
    rw [show s.params.hlen - k = s.params.hlen - (k + 1) + 1 by omega]
    rfl
  rw [placeHeaderByte_eq, placeHeaderByte_rxVersion, placeHeaderByte_rxMeta, placeHeaderByte_rxType,
    placeHeaderByte_rxlen, placeHeaderByte_rxCsum]
  simp only [takeByte, beginStep, headerRead, hinputs, placedBytes_len_succ, placedBytes_csum_succ]
  rw [byteField_succ (fun e => by rw [e]; rfl), byteField_succ (fun e => by rw [e]; rfl),
    byteField_succ (fun e => by rw [e]; rfl)]

@[simp] theorem headerRead_hidx : (headerRead h rest later s i k).hidx = i := rfl

@[simp] theorem headerRead_params : (headerRead h rest later s i k).params = s.params := rfl

/-- A header byte leads to the next position, and the last one to the length check (R151). -/
theorem hdrByte_headerRead (hk : k < s.params.hlen) (hi : i.toNat = k) :
    hdrByte (h.byteAt s.params k)
        (takeByte ((h.bytes s.params).drop (k + 1) ++ rest) (beginStep (headerRead h rest later s i k))) =
      if k + 1 = s.params.hlen then checkLength (headerRead h rest later s i (k + 1))
      else headerRead h rest later s (i + 1#4) (k + 1) := by
  simp only [hdrByte, takeByte_hidx, beginStep_hidx, headerRead_hidx, takeByte_params, beginStep_params,
    headerRead_params, hi, placeHeaderByte_headerRead hk, show k = s.params.hlen - 1 ↔ k + 1 = s.params.hlen by omega]
  rfl

theorem step_headerRead (hk : k < s.params.hlen) (hi : i.toNat = k) :
    step (headerRead h rest later s i k) = .next
      (if k + 1 = s.params.hlen then checkLength (headerRead h rest later s i (k + 1))
        else headerRead h rest later s (i + 1#4) (k + 1)) := by
  have hin : (headerRead h rest later s i k).inputs =
      StepIn.quiet :: (List.replicate (s.params.hlen - (k + 1)) StepIn.quiet ++ later) := by
    simp only [headerRead, show s.params.hlen - k = s.params.hlen - (k + 1) + 1 by omega]
    rfl
  have hchan : (headerRead h rest later s i k).chan =
      h.byteAt s.params k :: ((h.bytes s.params).drop (k + 1) ++ rest) := by
    simp only [headerRead, h.bytes_drop hk]
    rfl
  obtain ⟨hr, he, harr, hskip⟩ := step_of_quiet hin
  rw [hskip, skipStep_hdr_byte hr rfl he (harr.trans hchan), hdrByte_headerRead hk hi]

/-- The header bytes from position k on lead to the length check. -/
theorem run_headerRead (hk : k < s.params.hlen) (hi : i.toNat = k) :
    ∃ j, Host.Core.run Sys2Proof.core (s.params.hlen - k) (headerRead h rest later s i k) =
      .next (checkLength (headerRead h rest later s j s.params.hlen)) := by
  obtain ⟨n, hn⟩ : ∃ n, s.params.hlen = k + n + 1 := ⟨s.params.hlen - (k + 1), by omega⟩
  have hstep := step_headerRead (h := h) (rest := rest) (later := later) hk hi
  induction n generalizing k i with
  | zero =>
    rw [if_pos hn.symm] at hstep
    rw [show s.params.hlen - k = 0 + 1 by omega, run_succ 0 hstep]
    exact ⟨i, by rw [hn]; rfl⟩
  | succ n ih =>
    rw [if_neg (by omega)] at hstep
    rw [show s.params.hlen - k = s.params.hlen - (k + 1) + 1 by omega, run_succ _ hstep]
    have hlen := len_range s.params
    have hi' : (i + 1#4).toNat = k + 1 := by
      rw [Params.hlen] at hn
      rw [BitVec.toNat_add, hi]
      simp
      omega
    exact ih (by omega) hi' (by omega) (step_headerRead (by omega) hi')

/-- s in HDR behind the whole header h (R152). -/
def headerReceived (h : Header) (rest : List Byte) (later : List StepIn) (s : State) (i : BitVec 4) : State :=
  { s with
    phase := .hdr, hidx := i, rxVersion := h.version, rxMeta := h.metadata, rxType := h.type, rxlen := h.len
    rxCsum := h.sum, rxTake := true, txValid := false, txData := 0#8, regRdata := 0#32, chan := rest, inputs := later }

theorem headerRead_all (hlen : h.len.toNat < 2 ^ (8 * s.params.len)) :
    headerRead h rest later s i s.params.hlen = headerReceived h rest later s i := by
  have hrange := len_range s.params
  have hhlen : s.params.hlen = 7 + s.params.len := rfl
  have hrxlen : placedBytes s.params.byteOrder s.params.len h.len s.params.len = h.len := by
    rw [← foldl_zipIdx_field, place_field _ (by omega) hlen]
  have hrxCsum : placedBytes s.params.byteOrder 4 h.sum 4 = h.sum := by
    rw [← foldl_zipIdx_field, place_field _ (by decide) h.sum.isLt]
  have hdrop : (h.bytes s.params).drop s.params.hlen = [] := by simp [h.bytes_eq_map]
  simp only [headerRead, headerReceived, hdrop, Nat.sub_self, List.replicate_zero, List.nil_append,
    show min (s.params.hlen - 3) s.params.len = s.params.len by omega,
    show s.params.hlen - 3 - s.params.len = 4 by omega, hrxlen, hrxCsum]
  rw [if_pos (by omega), if_pos (by omega), if_pos (by omega)]

end

/-! ### A DECODE up to the length check -/

/-- The start step and the search lead to the header's first byte (R150, R131). -/
theorem run_decode_search {w : Word} {noise rest : List Byte} {h : Header} {later : List StepIn} {s : State}
    (hop : cmdOp w = 0x1#4) (hp : s.phase = .idle) (hno : hasMarker (noise ++ [Config.magicB0]) = false)
    (hc : s.chan = noise ++ Config.magicB0 :: Config.magicB1 :: (h.bytes s.params ++ rest))
    (hin : s.inputs = cmdInput w ::
      List.replicate (noise.length + 2) StepIn.quiet ++ (List.replicate s.params.hlen StepIn.quiet ++ later)) :
    Host.Core.run Sys2Proof.core (1 + (noise.length + 2)) s =
      .next (headerRead h rest later (decodeStart s) 0#4 0) := by
  have hstep : step s = .next (decodeStart (beginStep s)) := by
    rw [step_of_cmdInput hp hin, dispatch_decode hop]
  have hchan : (decodeStart (beginStep s)).chan =
      (noise ++ [Config.magicB0]) ++ Config.magicB1 :: (h.bytes s.params ++ rest) := by
    have harrive : s.input.arrive = [] := by rw [input_of_inputs hin, cmdInput]
    simp [decodeStart, harrive, hc]
  have hwin : (decodeStart (beginStep s)).window = [] := rfl
  have hlen : (noise ++ [Config.magicB0]).length + 1 = noise.length + 2 := by simp
  have hsearch := run_sync_marked (s := decodeStart (beginStep s)) (noise ++ [Config.magicB0])
    (h.bytes s.params ++ rest) (List.replicate s.params.hlen StepIn.quiet ++ later) rfl
    (by rwa [hwin, List.nil_append]) (by simp [hwin]) hchan (by rw [hlen]; exact congrArg List.tail hin)
  rw [hlen] at hsearch
  rw [Nat.add_comm, run_succ _ hstep, hsearch]
  simp [headerRead, marked, decodeStart, placedBytes]

/-- Over noise and a header a DECODE comes to the length check with the header in the RX registers (R150 to R153). -/
theorem run_decode_header {w : Word} {noise rest : List Byte} {h : Header} {later : List StepIn} {s : State}
    (hop : cmdOp w = 0x1#4) (hp : s.phase = .idle) (hlen : h.len.toNat < 2 ^ (8 * s.params.len))
    (hno : hasMarker (noise ++ [Config.magicB0]) = false)
    (hc : s.chan = noise ++ Config.magicB0 :: Config.magicB1 :: (h.bytes s.params ++ rest))
    (hin : s.inputs = cmdInput w :: List.replicate (noise.length + s.params.overhead) StepIn.quiet ++ later) :
    ∃ i, Host.Core.run Sys2Proof.core (1 + (noise.length + s.params.overhead)) s =
      .next (checkLength (headerReceived h rest later (decodeStart s) i)) := by
  have hover : noise.length + s.params.overhead = noise.length + 2 + s.params.hlen := by
    simp only [Params.overhead, Params.hlen]
    omega
  rw [hover, List.replicate_add, ← List.cons_append, List.append_assoc] at hin
  obtain ⟨i, hrun⟩ := run_headerRead (h := h) (rest := rest) (later := later) (s := decodeStart s) (i := 0#4) (k := 0)
    (by simp [Params.hlen]) rfl
  rw [headerRead_all (s := decodeStart s) hlen] at hrun
  refine ⟨i, ?_⟩
  rw [hover, ← Nat.add_assoc, run_add _ _ (run_decode_search hop hp hno hc hin)]
  exact hrun

/-- Settles O54: the header comes to the length check, of which the two ends for such a length are `Finish`. -/
theorem decodeRejectsBadLength : Obligations.DecodeRejectsBadLength := by
  unfold Obligations.DecodeRejectsBadLength
  intro w noise rest version metadata type len sum later s hop hp hlen hbad hno hc hin
  obtain ⟨i, hrun⟩ := run_decode_header (h := ⟨version, metadata, type, len, sum⟩) hop hp hlen hno hc hin
  rcases checkLength_cases (headerReceived ⟨version, metadata, type, len, sum⟩ rest later (decodeStart s) i) with
    ⟨hzero, e⟩ | ⟨hlong, e⟩ | ⟨hpos, hmax, -⟩
  · rw [e] at hrun
    exact ⟨_, hrun, rfl, rfl, (if_pos hzero).symm, rfl, rfl, rfl, rfl, rfl, rfl, rfl, rfl, rfl, fun _ => rfl, rfl, rfl,
      ⟨rfl, rfl, rfl⟩, rfl, rfl⟩
  · have hne : len ≠ 0#64 := fun h0 => by simp [headerReceived, h0] at hlong
    rw [e] at hrun
    exact ⟨_, hrun, rfl, rfl, (if_neg hne).symm, rfl, rfl, rfl, rfl, rfl, rfl, rfl, rfl, rfl, fun _ => rfl, rfl, rfl,
      ⟨rfl, rfl, rfl⟩, rfl, rfl⟩
  · rcases hbad with rfl | hlong
    · exact absurd hpos (by simp [headerReceived])
    · exact absurd hmax (Nat.not_le.2 hlong)

/-! ### The content in RXBUF -/

/-- t is s but for the content bytes c received in BODY: they stand in RXBUF and are accumulated (R112, R154). -/
structure ContentReceived (s : State) (c : List Byte) (t : State) : Prop where
  count : t.cnt.toNat = c.length
  held : Holds t.mem rxIndex c
  elsewhere : ∀ a, a < 0x100 ∨ 0x100 + c.length ≤ a → t.mem.read a = s.mem.read a
  summed : Accumulated t c
  frame : ∃ cnt acc pos mem rxTake txValid txData regRdata chan inputs, t =
    { s with
      cnt := cnt, acc := acc, pos := pos, mem := mem, rxTake := rxTake, txValid := txValid, txData := txData
      regRdata := regRdata, chan := chan, inputs := inputs }

/-- The next content byte, stored and accumulated, is received too. -/
theorem ContentReceived.storeContent {s t : State} {c : List Byte} (h : ContentReceived s c t) (hlt : c.length < 256)
    (b : Byte) (rest : List Byte) :
    ContentReceived s (c ++ [b]) (storeContent b (takeByte rest (beginStep t))) := by
  obtain ⟨hcount, hheld, helse, hsum, hframe⟩ := h
  have hmem : (Machine.storeContent b (takeByte rest (beginStep t))).mem = t.mem.write (rxIndex c.length) b := by
    rw [← hcount]
    rfl
  refine ⟨?_, ?_, fun a ha => ?_,
    accumulated_snoc b (s := storeRx t.cnt.toNat b (takeByte rest (beginStep t))) hsum, ?_⟩
  · rw [List.length_append, ← hcount]
    exact toNat_count (n := t.cnt) (by omega)
  · rw [hmem]
    exact holds_snoc (holds_write hheld b fun k hk => by simp only [rxIndex]; omega) (Memory.read_write_same ..)
  · rw [List.length_append, List.length_singleton] at ha
    rw [hmem, Memory.read_write_other _ _ (by simp only [rxIndex]; omega)]
    exact helse a (by omega)
  · obtain ⟨_, _, _, _, _, _, _, _, _, _, rfl⟩ := hframe
    exact ⟨_, _, _, _, _, _, _, _, _, _, rfl⟩

theorem contentReceived_nil {s : State} (hcnt : s.cnt = 0#9) (hacc : s.acc = 0#32) (hpos : s.pos = 0#2) :
    ContentReceived s [] s where
  count := by rw [hcnt]; rfl
  held := fun k hk => absurd hk (Nat.not_lt_zero k)
  elsewhere := fun _ _ => rfl
  summed := ⟨hacc, by rw [hpos]; rfl⟩
  frame := ⟨_, _, _, _, _, _, _, _, _, _, rfl⟩

/-- The content bytes l that complete the received length lead to the comparison (R154). -/
theorem run_body {l rest c : List Byte} {later : List StepIn} {s t : State} (hp : s.phase = .body) (hne : l ≠ [])
    (hlen : c.length + l.length = s.rxlen.toNat) (hmax : s.rxlen.toNat ≤ 256) (hrec : ContentReceived s c t)
    (hc : t.chan = l ++ rest) (hin : t.inputs = List.replicate l.length StepIn.quiet ++ later) :
    ∃ v, Host.Core.run Sys2Proof.core l.length t = .next (compareChecksum v) ∧ ContentReceived s (c ++ l) v ∧
      v.chan = rest ∧ v.inputs = later := by
  induction l generalizing t c with
  | nil => exact absurd rfl hne
  | cons b l ih =>
    rw [List.length_cons] at hlen
    have hnext := hrec.storeContent (by omega) b (l ++ rest)
    have htail : (beginStep t).inputs = List.replicate l.length StepIn.quiet ++ later := congrArg List.tail hin
    obtain ⟨hphase, hrxlen⟩ : t.phase = .body ∧ t.rxlen = s.rxlen := by
      obtain ⟨_, _, _, _, _, _, _, _, _, _, rfl⟩ := hrec.frame
      exact ⟨hp, rfl⟩
    have hcount := hrec.count
    obtain ⟨hr, he, harr, hskip⟩ := step_of_quiet hin
    have hstep := hskip.trans (skipStep_body_byte hr hphase (by omega) he (harr.trans hc))
    rw [contentByte, takeByte_cnt, beginStep_cnt, takeByte_rxlen, beginStep_rxlen, hcount, hrxlen] at hstep
    cases l with
    | nil =>
      have hlast : c.length + 1 = s.rxlen.toNat := hlen
      rw [if_pos hlast] at hstep
      exact ⟨_, run_succ 0 hstep, hnext, rfl, htail⟩
    | cons b' l =>
      rw [if_neg (by rw [← hlen, List.length_cons]; omega)] at hstep
      obtain ⟨v, hrun, hv⟩ := ih (List.cons_ne_nil b' l)
        (by rw [List.length_append, List.length_singleton]; omega) hnext rfl htail
      refine ⟨v, (run_succ _ hstep).trans hrun, ?_⟩
      rwa [List.append_assoc, List.singleton_append] at hv

theorem checkLength_of_legal {s : State} (hmin : 1 ≤ s.rxlen.toNat) (hmax : s.rxlen.toNat ≤ 256) :
    checkLength s = startBody s := by
  rcases checkLength_cases s with ⟨hzero, -⟩ | ⟨hlong, -⟩ | ⟨-, -, e⟩
  · simp [hzero] at hmin
  · exact absurd hmax (Nat.not_le.2 hlong)
  · exact e

/-- A DECODE over noise, a header of a legal length and its content comes to the comparison (R150 to R154). -/
theorem run_decode_frame {w : Word} {noise content rest : List Byte} {h : Header} {later : List StepIn} {s : State}
    (hop : cmdOp w = 0x1#4) (hp : s.phase = .idle) (hlen : h.len.toNat = content.length) (hmin : 1 ≤ content.length)
    (hmax : content.length ≤ 256) (hno : hasMarker (noise ++ [Config.magicB0]) = false)
    (hc : s.chan = noise ++ Config.magicB0 :: Config.magicB1 :: (h.bytes s.params ++ (content ++ rest)))
    (hin : s.inputs = cmdInput w ::
      List.replicate (noise.length + (s.params.overhead + content.length)) StepIn.quiet ++ later) :
    ∃ i v, Host.Core.run Sys2Proof.core (1 + (noise.length + (s.params.overhead + content.length))) s =
        .next (compareChecksum v) ∧
      ContentReceived (startBody (headerReceived h (content ++ rest)
        (List.replicate content.length StepIn.quiet ++ later) (decodeStart s) i)) content v ∧
      v.chan = rest ∧ v.inputs = later := by
  have hfits : h.len.toNat < 2 ^ (8 * s.params.len) := by
    obtain ⟨htwo, -⟩ := len_range s.params
    calc h.len.toNat < 2 ^ 16 := by omega
      _ ≤ 2 ^ (8 * s.params.len) := Nat.pow_le_pow_right (by omega) (by omega)
  rw [← Nat.add_assoc, List.replicate_add, ← List.cons_append, List.append_assoc] at hin
  obtain ⟨i, hheader⟩ := run_decode_header hop hp hfits hno hc hin
  rw [checkLength_of_legal (hlen.symm ▸ hmin) (hlen.symm ▸ hmax)] at hheader
  obtain ⟨v, hbody, hv⟩ := run_body (c := []) (s := startBody (headerReceived h (content ++ rest)
    (List.replicate content.length StepIn.quiet ++ later) (decodeStart s) i)) rfl (List.ne_nil_of_length_pos hmin)
    ((Nat.zero_add _).trans hlen.symm) (hlen.symm ▸ hmax) (contentReceived_nil rfl rfl rfl) rfl rfl
  refine ⟨i, v, ?_, hv⟩
  rw [show 1 + (noise.length + (s.params.overhead + content.length)) =
    1 + (noise.length + s.params.overhead) + content.length by omega, run_add _ _ hheader]
  exact hbody

/-- Settles O53: the run comes to the comparison, whose two ends are the two outcomes. -/
theorem decodeReceivesFrame : Obligations.DecodeReceivesFrame := by
  unfold Obligations.DecodeReceivesFrame
  intro w noise content rest version metadata type sum later s hop hp hmin hmax hno hc hin
  have hlen : (BitVec.ofNat 64 content.length).toNat = content.length := by
    rw [BitVec.toNat_ofNat]
    omega
  obtain ⟨i, v, hrun, ⟨-, hheld, helse, hsum, hframe⟩, hchan, hinputs⟩ :=
    run_decode_frame (h := ⟨version, metadata, type, BitVec.ofNat 64 content.length, sum⟩) (rest := rest) hop hp hlen
      hmin hmax hno (by simpa [wireFrame, Header.bytes, wireHeader] using hc) hin
  have ⟨hacc, _⟩ := hsum
  obtain ⟨_, _, _, _, _, _, _, _, _, _, rfl⟩ := hframe
  rcases compareChecksum_cases _ with ⟨heq, e⟩ | ⟨hne, e⟩ <;> rw [e] at hrun
  · have hmatch : csum content = sum := hacc.symm.trans heq
    exact ⟨_, hrun, rfl, rfl, (if_pos hmatch).symm, (decide_eq_true hmatch).symm, rfl, rfl, rfl, rfl, rfl, rfl, hheld,
      helse, hsum, hchan, rfl, ⟨rfl, rfl, rfl⟩, rfl, hinputs⟩
  · have hmiss : csum content ≠ sum := fun h => hne (hacc.trans h)
    exact ⟨_, hrun, rfl, rfl, (if_neg hmiss).symm, (decide_eq_false hmiss).symm, rfl, rfl, rfl, rfl, rfl, rfl, hheld,
      helse, hsum, hchan, rfl, ⟨rfl, rfl, rfl⟩, rfl, hinputs⟩

end Sys2Proof.Machine
end

section
/-!
PROOFS. The encode family: the start of an ENCODE, the steps of its phases, the whole command, and its frame on another
block.
-/
namespace Sys2Proof.Machine

/-! ### The start step -/

/-- The state behind the start of an ENCODE with a length of at most 256 (R180). -/
def encodeStarted (s : State) : State :=
  { accClear s with
    cnt := 0#9, eidx := 0#9, done := false, code := .ok, phase := if s.txLen = 0#32 then .emit else .calc }

theorem encodeStart_of_legal {s : State} (h : s.txLen.toNat ≤ 256) : encodeStart s = encodeStarted s := by
  rcases encodeStart_cases s with ⟨hlong, -⟩ | ⟨-, e⟩
  · exact absurd h (Nat.not_le.2 hlong)
  · exact e

theorem encodeStart_of_long {s : State} (h : 256 < s.txLen.toNat) :
    encodeStart s = finish .contentLengthExceeded s := by
  rcases encodeStart_cases s with ⟨-, e⟩ | ⟨hlegal, -⟩
  · exact e
  · exact absurd hlegal (Nat.not_le.2 h)

/-- Either phase of an ENCODE is a busy one. -/
theorem encodeStarted_busy (s : State) : (encodeStarted s).busy = true := by
  simp only [State.busy, encodeStarted]
  split <;> rfl

/-- Settles O8: in IDLE the command step is `EncodeStart()`, of which this is the legal case. -/
theorem encodeStartsFrame : Obligations.EncodeStartsFrame := by
  unfold Obligations.EncodeStartsFrame
  intro lo arg hi s hr hp hlen
  have hstart : commandStep encodeStart s = .next (encodeStarted (beginStep s)) := by
    rw [commandStep_of_idle hr hp, encodeStart_of_legal (s := beginStep s) hlen]
  exact ⟨_, hstart, rfl, encodeStarted_busy _, rfl, rfl, rfl, rfl, rfl, rfl, rfl, rfl, rfl, rfl, rfl, ⟨rfl, rfl, rfl⟩,
    ⟨rfl, rfl, rfl, rfl, rfl⟩, fun _ => rfl, ⟨rfl, rfl⟩, ⟨rfl, rfl, rfl, rfl⟩, ⟨rfl, rfl⟩⟩

/-- Settles O9: in IDLE the command step is `EncodeStart()`, of which this is the case that ends at once. -/
theorem encodeRejectsLongLength : Obligations.EncodeRejectsLongLength := by
  unfold Obligations.EncodeRejectsLongLength
  intro lo arg hi s hr hp hlen
  have hstart : commandStep encodeStart s = .next (finish .contentLengthExceeded (beginStep s)) := by
    rw [commandStep_of_idle hr hp, encodeStart_of_long (s := beginStep s) hlen]
  obtain ⟨hdone, hcode, hbusy, hvalid, hovr, hseq, hrest⟩ :=
    finish_commandEnded .contentLengthExceeded s.acc s.pos hp
  exact ⟨_, hstart, hdone, hcode, hbusy, hvalid, hovr, hseq, ⟨rfl, rfl⟩, hrest⟩

/-! ### The step of phase CALC -/

/-- The content byte b is accumulated and counted (R181). -/
def sumContent (b : Byte) (s : State) : State := countContent (accByte b s)

/-- What CALC does with the content byte b: after the last one EMIT begins (R181). -/
def calcByte (b : Byte) (s : State) : State :=
  if s.cnt.toNat + 1 = s.txLen.toNat then startEmit (sumContent b s) else sumContent b s

/-- With TXBUF[cnt] in the buffer and written, `calcStep` answers that state. -/
theorem calcStep_of_read {s : State} {b : Byte} (hc : s.cnt.toNat < 256) (hb : s.mem.read s.cnt.toNat = some b) :
    calcStep s = .ok (calcByte b s) := by
  refine calcStep_ok.2 ⟨b, hc, hb, ?_⟩
  unfold calcByte
  by_cases hlast : s.cnt.toNat + 1 = s.txLen.toNat
  · exact .inl ⟨hlast, if_pos hlast⟩
  · exact .inr ⟨hlast, if_neg hlast⟩

theorem skipStep_calc {s : State} {b : Byte} (hr : Runs s) (hp : s.phase = .calc) (hc : s.cnt.toNat < 256)
    (hb : s.mem.read s.cnt.toNat = some b) : skipStep s = .next (calcByte b (beginStep s)) := by
  refine skipStep_of_phaseStep hr ?_
  simp only [phaseStep, beginStep_phase, hp]
  exact calcStep_of_read (s := beginStep s) hc hb

/-- What every CALC step keeps, and the outputs it does not drive (R181, R201). -/
def CalcKeeps (s t : State) : Prop :=
  t.winN = s.winN ∧ t.winB = s.winB ∧ t.hidx = s.hidx ∧ SameFlags s t ∧ SameTx s t ∧ SameRx s t ∧ SameMem s t ∧
    SameStreams s t ∧ NoOutputs t ∧ Advanced s t

/-- The fields a CALC step writes are the phase, the content and frame counters and the accumulator. -/
theorem calcKeeps_update (phase : Phase) (cnt eidx : BitVec 9) (acc : Word) (pos : BitVec 2) (s : State) :
    CalcKeeps s { beginStep s with phase := phase, cnt := cnt, eidx := eidx, acc := acc, pos := pos } :=
  ⟨rfl, rfl, rfl, ⟨rfl, rfl, rfl, rfl⟩, ⟨rfl, rfl, rfl⟩, ⟨rfl, rfl, rfl, rfl, rfl⟩, fun _ => rfl, ⟨rfl, rfl⟩,
    ⟨rfl, rfl, rfl, rfl⟩, ⟨rfl, rfl⟩⟩

theorem calcByte_keeps (b : Byte) (s : State) : CalcKeeps s (calcByte b (beginStep s)) := by
  unfold calcByte
  split <;> exact calcKeeps_update ..

/-- Settles O26: the last byte of the content and one before it are the two cases. -/
theorem calcStepOutcomes : Obligations.CalcStep := by
  unfold Obligations.CalcStep
  intro we a wd b s hr hp hc hb
  have hpos : (s.pos + 1#2).toNat = (s.pos.toNat + 1) % 4 := by simp [BitVec.toNat_add]
  have hcnt : (s.cnt + 1#9).toNat = s.cnt.toNat + 1 := toNat_count (by omega)
  have hkeeps := calcByte_keeps b s
  refine ⟨_, skipStep_calc hr hp hc hb, ?_⟩
  rw [calcByte, beginStep_cnt, beginStep_txLen] at hkeeps ⊢
  by_cases hlast : s.cnt.toNat + 1 = s.txLen.toNat
  · rw [if_pos hlast] at hkeeps
    rw [if_pos hlast, if_pos hlast]
    exact ⟨rfl, hpos, hcnt, ⟨rfl, rfl⟩, hkeeps⟩
  · rw [if_neg hlast] at hkeeps
    rw [if_neg hlast, if_neg hlast]
    exact ⟨rfl, hpos, hcnt, ⟨hp, rfl⟩, hkeeps⟩

/-! ### The frame that EMIT sends -/

/-- The header that EMIT sends (R184). -/
def State.txHeader (s : State) : Header := ⟨Config.version, s.txMeta, s.txType, s.txLen.setWidth 64, s.acc⟩

/-- The frame that EMIT sends when TXBUF holds the content (R184, R185). -/
def State.txFrame (s : State) (content : List Byte) : List Byte :=
  Config.magicB0 :: Config.magicB1 :: (s.txHeader.bytes s.params ++ content)

theorem overhead_le (p : Params) : p.overhead ≤ 17 := by
  have := len_range p
  rw [Params.overhead]
  omega

theorem Header.bytes_length (p : Params) (h : Header) : (h.bytes p).length = p.hlen := by simp [h.bytes_eq_map]

theorem txFrame_length (s : State) (content : List Byte) :
    (s.txFrame content).length = s.params.overhead + content.length := by
  simp only [State.txFrame, List.length_cons, List.length_append, Header.bytes_length, Params.hlen, Params.overhead]
  omega

/-- TX_LEN on the wire is the length of the content. -/
theorem setWidth_eq_ofNat_length {v : Word} {content : List Byte} (h : v.toNat = content.length) :
    v.setWidth 64 = BitVec.ofNat 64 content.length := by
  rw [← h]
  exact (BitVec.ofNat_toNat 64 v).symm

/-- It is the frame of R80. -/
theorem txFrame_eq_wireFrame {s : State} {content : List Byte} (h : s.txLen.toNat = content.length) :
    s.txFrame content =
      wireFrame s.params 0x01#8 s.txMeta s.txType (BitVec.ofNat 64 content.length) s.acc content := by
  simp [State.txFrame, State.txHeader, Header.bytes, wireHeader, wireFrame, setWidth_eq_ofNat_length h, Config.version]

/-- Behind the marker `frameByte` reads the header, whose positions `hdrField` names (R81, R184). -/
theorem frameByte_header {s : State} {k : Nat} (hk : k < s.params.hlen) :
    frameByte s (k + 2) = .ok (s.txHeader.byteAt s.params k) := by
  rw [Params.hlen] at hk
  simp only [frameByte, show k + 2 ≠ 0 by omega, show k + 2 ≠ 1 by omega, show k + 2 = 2 ↔ k = 0 by omega,
    show k + 2 = 3 ↔ k = 1 by omega, show k + 2 = 4 ↔ k = 2 by omega,
    show k + 2 ≤ 4 + s.params.len ↔ k ≤ 2 + s.params.len by omega, show k + 2 ≤ 8 + s.params.len by omega,
    show k + 2 - 5 = k - 3 by omega, if_true, if_false, Header.byteAt, hdrField]
  split_ifs <;> rfl

/-- Behind the header it reads TXBUF (R184). -/
theorem frameByte_content (s : State) (k : Nat) : frameByte s (k + s.params.overhead) = readTx s k := by
  have hover : s.params.overhead = 9 + s.params.len := rfl
  rw [frameByte, if_neg (by omega), if_neg (by omega), if_neg (by omega), if_neg (by omega), if_neg (by omega),
    if_neg (by omega), if_neg (by omega), show k + s.params.overhead - 9 - s.params.len = k by omega]

/-- `frameByte` lists the bytes of the frame: the marker, the header and the content (R184, R185). -/
theorem frameByte_of_txFrame {s : State} {content : List Byte} {e : Nat} {b : Byte} (hmax : content.length ≤ 256)
    (hheld : Holds s.mem txIndex content) (hb : (s.txFrame content)[e]? = some b) : frameByte s e = .ok b := by
  match e with
  | 0 => simpa [State.txFrame, frameByte] using hb
  | 1 => simpa [State.txFrame, frameByte] using hb
  | k + 2 =>
    have hbehind : (s.txHeader.bytes s.params ++ content)[k]? = some b := hb
    by_cases hk : k < s.params.hlen
    · rw [List.getElem?_append_left (by rwa [Header.bytes_length]), Header.bytes_eq_map] at hbehind
      rw [frameByte_header hk, ← show s.txHeader.byteAt s.params k = b by simpa [hk] using hbehind]
    · obtain ⟨j, rfl⟩ := Nat.exists_eq_add_of_le' (Nat.le_of_not_lt hk)
      rw [List.getElem?_append_right (by rw [Header.bytes_length]; omega), Header.bytes_length,
        Nat.add_sub_cancel] at hbehind
      have hj : j < content.length := (List.getElem?_eq_some_iff.1 hbehind).1
      rw [show j + s.params.hlen + 2 = j + s.params.overhead by simp only [Params.hlen, Params.overhead]; omega,
        frameByte_content]
      exact readTx_ok.2 ⟨Nat.lt_of_lt_of_le hj hmax, (hheld j hj).trans hbehind⟩

/-! ### The step of phase EMIT -/

/-- The byte b is sent and counted (R183). -/
def sendByte (b : Byte) (s : State) : State := countSent (txEmit b s)

/-- What EMIT does with the byte b of the frame: after the last one the command ends (R183). -/
def emitByte (b : Byte) (s : State) : State :=
  if s.eidx.toNat + 1 = s.params.overhead + s.txLen.toNat then finish .ok (sendByte b s) else sendByte b s

/-- In EMIT a step without an access sends the byte of the frame at eidx. -/
theorem skipStep_emit {s : State} {content : List Byte} {b : Byte} (hr : Runs s) (hp : s.phase = .emit)
    (hmax : content.length ≤ 256) (hheld : Holds s.mem txIndex content)
    (hb : (s.txFrame content)[s.eidx.toNat]? = some b) : skipStep s = .next (emitByte b (beginStep s)) := by
  refine skipStep_of_phaseStep hr ?_
  simp only [phaseStep, beginStep_phase, hp]
  refine emitStep_ok.2 ⟨b, frameByte_of_txFrame (s := beginStep s) hmax hheld hb, ?_⟩
  rw [emitByte]
  by_cases hlast : (beginStep s).eidx.toNat + 1 = (beginStep s).params.overhead + (beginStep s).txLen.toNat
  · exact .inl ⟨hlast, if_pos hlast⟩
  · exact .inr ⟨hlast, if_neg hlast⟩

/-- What every EMIT step keeps, and the outputs it does not drive (R183, R201). -/
def EmitKeeps (s t : State) : Prop :=
  t.winN = s.winN ∧ t.winB = s.winB ∧ t.hidx = s.hidx ∧ t.cnt = s.cnt ∧ t.rxValid = s.rxValid ∧ t.ovr = s.ovr ∧
    t.chan = s.arrived ∧ t.rxTake = false ∧ t.regRdata = 0#32 ∧ SameChecksum s t ∧ SameTx s t ∧ SameRx s t ∧
    SameMem s t ∧ Advanced s t

/-- The fields an EMIT step writes are the phase, the frame counter, DONE, CODE, the transmit stream and its port. -/
theorem emitKeeps_update (phase : Phase) (eidx : BitVec 9) (done : Bool) (code : Code) (sent : List Byte)
    (txValid : Bool) (txData : Byte) (s : State) :
    EmitKeeps s
      { beginStep s with
        phase := phase, eidx := eidx, done := done, code := code, sent := sent, txValid := txValid
        txData := txData } :=
  ⟨rfl, rfl, rfl, rfl, rfl, rfl, rfl, rfl, rfl, ⟨rfl, rfl⟩, ⟨rfl, rfl, rfl⟩, ⟨rfl, rfl, rfl, rfl, rfl⟩, fun _ => rfl,
    ⟨rfl, rfl⟩⟩

theorem emitByte_keeps (b : Byte) (s : State) : EmitKeeps s (emitByte b (beginStep s)) := by
  unfold emitByte
  split <;> exact emitKeeps_update ..

/-- Settles O27: the last byte of the frame and one before it are the two cases. -/
theorem emitStepOutcomes : Obligations.EmitStep := by
  unfold Obligations.EmitStep
  intro we a wd content s hr hp hlen hmax hheld he
  obtain ⟨b, hb⟩ : ∃ b, (s.txFrame content)[s.eidx.toNat]? = some b :=
    ⟨_, List.getElem?_eq_getElem (by rwa [txFrame_length])⟩
  have hover := overhead_le s.params
  have heidx : (s.eidx + 1#9).toNat = s.eidx.toNat + 1 := toNat_count (by omega)
  have hkeeps := emitByte_keeps b s
  refine ⟨_, b, skipStep_emit hr hp hmax hheld hb, txFrame_eq_wireFrame hlen ▸ hb, ?_⟩
  rw [emitByte, beginStep_eidx, beginStep_params, beginStep_txLen, hlen] at hkeeps ⊢
  by_cases hlast : s.eidx.toNat + 1 = s.params.overhead + content.length
  · rw [if_pos hlast] at hkeeps
    rw [if_pos hlast, if_pos hlast]
    exact ⟨rfl, rfl, rfl, heidx, ⟨rfl, rfl, rfl⟩, hkeeps⟩
  · rw [if_neg hlast] at hkeeps
    rw [if_neg hlast, if_neg hlast]
    exact ⟨rfl, rfl, rfl, heidx, ⟨hp, rfl, rfl⟩, hkeeps⟩

/-! ### The content in the accumulator -/

/-- t is s but for the content bytes c accumulated in CALC (R112, R181). -/
structure ContentSummed (s : State) (c : List Byte) (t : State) : Prop where
  count : t.cnt.toNat = c.length
  summed : Accumulated t c
  frame : ∃ cnt acc pos rxTake txValid txData regRdata inputs, t =
    { s with
      cnt := cnt, acc := acc, pos := pos, rxTake := rxTake, txValid := txValid, txData := txData
      regRdata := regRdata, inputs := inputs }

/-- The next content byte, accumulated in a quiet step, is summed too. -/
theorem ContentSummed.sumContent {s t : State} {c : List Byte} (h : ContentSummed s c t) (hlt : c.length < 256)
    (harrive : t.input.arrive = []) (b : Byte) : ContentSummed s (c ++ [b]) (sumContent b (beginStep t)) := by
  obtain ⟨hcount, hsum, hframe⟩ := h
  refine ⟨?_, accumulated_snoc b (s := beginStep t) hsum, ?_⟩
  · rw [List.length_append, ← hcount]
    exact toNat_count (n := t.cnt) (by omega)
  · rw [beginStep_of_noArrival harrive]
    obtain ⟨_, _, _, _, _, _, _, _, rfl⟩ := hframe
    exact ⟨_, _, _, _, _, _, _, _, rfl⟩

/-- The content bytes l that complete TX_LEN lead to EMIT (R181). -/
theorem run_calc {l c : List Byte} {later : List StepIn} {s t : State} (hp : s.phase = .calc) (hne : l ≠ [])
    (hlen : s.txLen.toNat = c.length + l.length) (hmax : s.txLen.toNat ≤ 256)
    (hheld : Holds s.mem txIndex (c ++ l)) (hsum : ContentSummed s c t)
    (hin : t.inputs = List.replicate l.length StepIn.quiet ++ later) :
    ∃ v, Host.Core.run Sys2Proof.core l.length t = .next (startEmit v) ∧ ContentSummed s (c ++ l) v ∧
      v.inputs = later := by
  induction l generalizing t c with
  | nil => exact absurd rfl hne
  | cons b l ih =>
    rw [List.length_cons] at hlen
    have hinput : t.input = StepIn.quiet := input_of_inputs hin
    have hnext := hsum.sumContent (by omega) (by rw [hinput, StepIn.quiet]) b
    have htail : (beginStep t).inputs = List.replicate l.length StepIn.quiet ++ later := congrArg List.tail hin
    obtain ⟨hphase, htxLen, hmem⟩ : t.phase = .calc ∧ t.txLen = s.txLen ∧ t.mem = s.mem := by
      obtain ⟨_, _, _, _, _, _, _, _, rfl⟩ := hsum.frame
      exact ⟨hp, rfl, rfl⟩
    have hcount := hsum.count
    have hread : t.mem.read t.cnt.toNat = some b := by
      rw [hmem, hcount]
      exact (hheld c.length (by simp)).trans (by simp)
    obtain ⟨hr, -, -, hskip⟩ := step_of_quiet hin
    have hstep := hskip.trans (skipStep_calc hr hphase (by omega) hread)
    rw [calcByte, beginStep_cnt, beginStep_txLen, hcount, htxLen] at hstep
    cases l with
    | nil =>
      have hlast : c.length + 1 = s.txLen.toNat := hlen.symm
      rw [if_pos hlast] at hstep
      exact ⟨_, run_succ 0 hstep, hnext, htail⟩
    | cons b' l =>
      rw [if_neg (by rw [hlen, List.length_cons]; omega)] at hstep
      obtain ⟨v, hrun, hv⟩ := ih (List.cons_ne_nil b' l)
        (by rw [List.length_append, List.length_singleton]; omega) (by simpa using hheld) hnext htail
      refine ⟨v, (run_succ _ hstep).trans hrun, ?_⟩
      rwa [List.append_assoc, List.singleton_append] at hv

/-- An ENCODE comes to EMIT with the content's checksum in the accumulator; of no content, at once (R180, R181). -/
theorem run_encode_calc {w : Word} {content : List Byte} {later : List StepIn} {s : State} (hop : cmdOp w = 0x2#4)
    (hp : s.phase = .idle) (hlen : s.txLen.toNat = content.length) (hmax : content.length ≤ 256)
    (hheld : Holds s.mem txIndex content)
    (hin : s.inputs = cmdInput w :: List.replicate content.length StepIn.quiet ++ later) :
    ∃ v, Host.Core.run Sys2Proof.core (1 + content.length) s = .next (startEmit v) ∧
      ContentSummed (encodeStarted (beginStep s)) content v ∧ v.inputs = later := by
  have hstep : step s = .next (encodeStarted (beginStep s)) := by
    rw [step_of_cmdInput hp hin, dispatch_encode hop, encodeStart_of_legal (s := beginStep s) (hlen ▸ hmax)]
  have hempty : ContentSummed (encodeStarted (beginStep s)) [] (encodeStarted (beginStep s)) :=
    ⟨rfl, accumulated_accClear (beginStep s), _, _, _, _, _, _, _, _, rfl⟩
  have htail : (encodeStarted (beginStep s)).inputs = List.replicate content.length StepIn.quiet ++ later :=
    congrArg List.tail hin
  rw [Nat.add_comm, run_succ _ hstep]
  by_cases hzero : s.txLen = 0#32
  · obtain rfl : content = [] := List.length_eq_zero_iff.1 (by rw [← hlen, hzero]; rfl)
    have hphase : (encodeStarted (beginStep s)).phase = .emit := if_pos hzero
    refine ⟨_, ?_, hempty, htail⟩
    rw [startEmit, ← hphase]
    rfl
  · have hne : content ≠ [] := fun h => hzero (BitVec.eq_of_toNat_eq (by rw [hlen, h]; rfl))
    exact run_calc (s := encodeStarted (beginStep s)) (c := []) (if_neg hzero) hne (hlen.trans (Nat.zero_add _).symm)
      (hlen ▸ hmax) hheld hempty htail

/-! ### The frame on the wire -/

/-- t is s but for the bytes sent in EMIT, which are the frame's first ones (R183). -/
structure BytesSent (s : State) (bytes : List Byte) (t : State) : Prop where
  count : t.eidx.toNat = bytes.length
  frame : ∃ eidx rxTake txValid txData regRdata inputs, t =
    { s with
      eidx := eidx, sent := s.sent ++ bytes, rxTake := rxTake, txValid := txValid, txData := txData
      regRdata := regRdata, inputs := inputs }

/-- The next byte, sent in a quiet step, is sent too. -/
theorem BytesSent.sendByte {s t : State} {bytes : List Byte} (h : BytesSent s bytes t) (hlt : bytes.length < 511)
    (harrive : t.input.arrive = []) (b : Byte) : BytesSent s (bytes ++ [b]) (sendByte b (beginStep t)) := by
  obtain ⟨hcount, hframe⟩ := h
  refine ⟨?_, ?_⟩
  · rw [List.length_append, ← hcount]
    exact toNat_count (n := t.eidx) (by omega)
  · rw [beginStep_of_noArrival harrive, ← List.append_assoc]
    obtain ⟨_, _, _, _, _, _, rfl⟩ := hframe
    exact ⟨_, _, _, _, _, _, rfl⟩

/-- The bytes `l` that complete the frame lead to the end of the command (R183, R185). -/
theorem run_emit {l bytes content : List Byte} {later : List StepIn} {s t : State} (hp : s.phase = .emit) (hne : l ≠ [])
    (hlen : s.txLen.toNat = content.length) (hmax : content.length ≤ 256) (hheld : Holds s.mem txIndex content)
    (hframe : s.txFrame content = bytes ++ l) (hsent : BytesSent s bytes t)
    (hin : t.inputs = List.replicate l.length StepIn.quiet ++ later) :
    ∃ v, Host.Core.run Sys2Proof.core l.length t = .next (finish .ok v) ∧ BytesSent s (s.txFrame content) v ∧
      v.inputs = later := by
  induction l generalizing t bytes with
  | nil => exact absurd rfl hne
  | cons b l ih =>
    have htotal : bytes.length + (l.length + 1) = s.params.overhead + content.length := by
      rw [← txFrame_length, hframe, List.length_append, List.length_cons]
    have hover := overhead_le s.params
    have hinput : t.input = StepIn.quiet := input_of_inputs hin
    have hnext := hsent.sendByte (by omega) (by rw [hinput, StepIn.quiet]) b
    have htail : (beginStep t).inputs = List.replicate l.length StepIn.quiet ++ later := congrArg List.tail hin
    have hframe' : s.txFrame content = (bytes ++ [b]) ++ l := by simpa using hframe
    obtain ⟨hphase, hparams, htxLen, hmem, hsame⟩ : t.phase = .emit ∧ t.params = s.params ∧ t.txLen = s.txLen ∧
        t.mem = s.mem ∧ t.txFrame content = s.txFrame content := by
      obtain ⟨_, _, _, _, _, _, rfl⟩ := hsent.frame
      exact ⟨hp, rfl, rfl, rfl, rfl⟩
    have hcount := hsent.count
    have hbyte : (t.txFrame content)[t.eidx.toNat]? = some b := by simp [hsame, hcount, hframe]
    obtain ⟨hr, -, -, hskip⟩ := step_of_quiet hin
    have hstep := hskip.trans (skipStep_emit hr hphase hmax (hmem ▸ hheld) hbyte)
    rw [emitByte, beginStep_eidx, beginStep_params, beginStep_txLen, hcount, hparams, htxLen, hlen] at hstep
    cases l with
    | nil =>
      have hlast : bytes.length + 1 = s.params.overhead + content.length := htotal
      rw [if_pos hlast] at hstep
      rw [List.append_nil] at hframe'
      exact ⟨_, run_succ 0 hstep, hframe' ▸ hnext, htail⟩
    | cons b' l =>
      rw [if_neg (by rw [← htotal, List.length_cons]; omega)] at hstep
      obtain ⟨v, hrun, hv⟩ := ih (List.cons_ne_nil b' l) hframe' hnext htail
      exact ⟨v, (run_succ _ hstep).trans hrun, hv⟩

/-- t is s behind the last byte of an ENCODE whose content is c, before its end (R180 to R185). -/
structure FrameSent (s : State) (c : List Byte) (t : State) : Prop where
  countedContent : t.cnt.toNat = c.length
  countedFrame : t.eidx.toNat = s.params.overhead + c.length
  summed : Accumulated t c
  frame : ∃ cnt eidx acc pos rxTake txValid txData regRdata inputs, t =
    { s with
      phase := .emit, done := false, code := .ok, cnt := cnt, eidx := eidx, acc := acc, pos := pos
      sent := s.sent ++ wireFrame s.params 0x01#8 s.txMeta s.txType (BitVec.ofNat 64 c.length) (csum c) c
      rxTake := rxTake, txValid := txValid, txData := txData, regRdata := regRdata, inputs := inputs }

/-- The run of CALC and the run of EMIT, over the frame with the checksum that CALC left in the accumulator. -/
theorem run_encode {w : Word} {content : List Byte} {later : List StepIn} {s : State} (hop : cmdOp w = 0x2#4)
    (hp : s.phase = .idle) (hlen : s.txLen.toNat = content.length) (hmax : content.length ≤ 256)
    (hheld : Holds s.mem txIndex content)
    (hin : s.inputs = cmdInput w ::
      List.replicate (content.length + (s.params.overhead + content.length)) StepIn.quiet ++ later) :
    ∃ u, Host.Core.run Sys2Proof.core (1 + (content.length + (s.params.overhead + content.length))) s =
      .next (finish .ok u) ∧ FrameSent s content u ∧ u.inputs = later := by
  have harrive : s.input.arrive = [] := by rw [input_of_inputs hin, cmdInput]
  rw [List.replicate_add, ← List.cons_append, List.append_assoc] at hin
  obtain ⟨v, hcalc, ⟨hcnt, hsum, hframe⟩, hinputs⟩ := run_encode_calc hop hp hlen hmax hheld hin
  obtain ⟨hparams, htxLen, hmem, htxMeta, htxType⟩ : v.params = s.params ∧ v.txLen = s.txLen ∧ v.mem = s.mem ∧
      v.txMeta = s.txMeta ∧ v.txType = s.txType := by
    obtain ⟨_, _, _, _, _, _, _, _, rfl⟩ := hframe
    exact ⟨rfl, rfl, rfl, rfl, rfl⟩
  have hlen' : (startEmit v).txLen.toNat = content.length := by rw [startEmit_txLen, htxLen, hlen]
  have hwire : (startEmit v).txFrame content =
      wireFrame s.params 0x01#8 s.txMeta s.txType (BitVec.ofNat 64 content.length) (csum content) content := by
    have ⟨hacc, _⟩ := hsum
    rw [txFrame_eq_wireFrame hlen', startEmit_params, startEmit_txMeta, startEmit_txType, startEmit_acc, hparams,
      htxMeta, htxType, hacc]
  have hlength : ((startEmit v).txFrame content).length = s.params.overhead + content.length := by
    rw [txFrame_length, startEmit_params, hparams]
  have hnone : BytesSent (startEmit v) [] (startEmit v) := ⟨rfl, _, _, _, _, _, _, by rw [List.append_nil]⟩
  obtain ⟨u, hemit, ⟨heidx, hframe'⟩, hlater⟩ := run_emit (l := (startEmit v).txFrame content) rfl
    (List.cons_ne_nil _ _) hlen' hmax (hmem ▸ hheld) (List.nil_append _).symm hnone (hlength ▸ hinputs)
  rw [hlength] at hemit heidx
  rw [hwire] at hframe'
  refine ⟨u, ?_, ⟨?_, heidx, ?_, ?_⟩, hlater⟩
  · rw [← Nat.add_assoc, run_add _ _ hcalc]
    exact hemit
  · obtain ⟨_, _, _, _, _, _, rfl⟩ := hframe'
    exact hcnt
  · obtain ⟨_, _, _, _, _, _, rfl⟩ := hframe'
    exact hsum
  · rw [beginStep_of_noArrival harrive] at hframe
    obtain ⟨_, _, _, _, _, _, rfl⟩ := hframe'
    obtain ⟨_, _, _, _, _, _, _, _, rfl⟩ := hframe
    exact ⟨_, _, _, _, _, _, _, _, _, rfl⟩

/-- Settles O55: behind the last byte of the frame the command ends OK. -/
theorem encodeSendsFrame : Obligations.EncodeSendsFrame := by
  unfold Obligations.EncodeSendsFrame
  intro w content later s hop hp hlen hmax hheld hin
  obtain ⟨u, hrun, ⟨hcnt, heidx, hsum, hframe⟩, hlater⟩ := run_encode hop hp hlen hmax hheld hin
  obtain ⟨_, _, _, _, _, _, _, _, _, rfl⟩ := hframe
  exact ⟨_, hrun, rfl, rfl, rfl, rfl, rfl, rfl, hsum, rfl, rfl, rfl, hcnt, heidx, rfl, ⟨rfl, rfl, rfl⟩,
    ⟨rfl, rfl, rfl, rfl, rfl⟩, fun _ => rfl, rfl, hlater⟩

/-! ### The frame on another block, and sent again -/

/-- Settles O56: the frame that O55 says is sent is one that O53 says is received, with no noise before it. -/
theorem decodeOfEncodedFrame : Obligations.DecodeOfEncodedFrame := by
  unfold Obligations.DecodeOfEncodedFrame
  intro w w' content later later' s r hop hop' hp hp' hparams hlen hmin hmax hheld hin hin'
  obtain ⟨t, hrun, hsent, -⟩ := encodeSendsFrame w content later s hop hp hlen hmax hheld hin
  refine ⟨t, _, hrun, hsent, fun hchan => ?_⟩
  rw [← hparams] at hchan hin' ⊢
  obtain ⟨u, hrun', hphase, hdone, hcode, hvalid, -, hv, hm, ht, hl, hc, hheld', -, -, hrest, -⟩ :=
    decodeReceivesFrame w' [] content [] 0x01#8 s.txMeta s.txType (csum content) later' r hop' hp' hmin hmax rfl
      (by rw [hchan, List.append_nil]; rfl) (by rw [hin', List.length_nil, Nat.zero_add])
  rw [List.length_nil, Nat.zero_add] at hrun'
  exact ⟨u, hrun', hphase, hdone, hcode.trans (if_pos rfl), hvalid.trans (decide_eq_true rfl), hv, hm, ht,
    hl.trans (setWidth_eq_ofNat_length hlen).symm, hc, hheld', hrest⟩

theorem wireFrame_length (p : Params) (version metadata type : Byte) (len : BitVec 64) (sum : Word)
    (content : List Byte) :
    (wireFrame p version metadata type len sum content).length = p.overhead + content.length := by
  simp [wireFrame, field, Params.overhead]
  omega

/-- Settles O57: by O55 both send the frame of the same registers and content. -/
theorem retransmissionIsIdentical : Obligations.RetransmissionIsIdentical := by
  unfold Obligations.RetransmissionIsIdentical
  intro w w' content later later' s r hop hop' hp hp' hparams ⟨hmeta, htype, hlen⟩ hlength hmax hheld hheld' hin hin'
  obtain ⟨t, hrun, hsent, -⟩ := encodeSendsFrame w content later s hop hp hlength hmax hheld hin
  obtain ⟨u, hrun', hsent', -⟩ := encodeSendsFrame w' content later' r hop' hp' (by rw [hlen, hlength]) hmax hheld'
    (by rw [hparams, hin'])
  rw [hparams] at hrun' hsent'
  rw [hmeta, htype] at hsent'
  exact ⟨t, u, _, hrun, hrun', hsent, hsent', wireFrame_length ..⟩

end Sys2Proof.Machine
end

section
/-!
PROOFS. The control family: what a host write stores beside the running step, steps on an idle block, NOP and the
illegal commands, writes while a command runs, the instruction that a step runs, and the host's pace.
-/
namespace Sys2Proof.Machine

/-! ### What a host write stores -/

/-- The registers that a host write changes: CMD, STATUS and the TX registers (R203). -/
def Reg.isWritable : Reg → Bool
  | .cmd | .status => true
  | r => r.isTx

theorem hostWrite_of_not_isWritable {a : Index} (h : (regAt a).isWritable = false) (e : Bool) (w : Word) (u : State) :
    hostWrite e a w u = u := by
  cases hreg : regAt a <;> simp only [hostWrite, hreg]
  all_goals simp [hreg, Reg.isWritable, Reg.isTx] at h

/-- But for the TX indices, CMD and STATUS every index holds a read-only register, an entry of RXBUF or none (R27). -/
theorem regAt_not_isWritable {a : Index} (htx : ¬ IsTxIndex a) (hcmd : a ≠ Config.cmdIndex) (hst : a ≠ 0x201#12) :
    (regAt a).isWritable = false := by
  rcases regAt_cases a with ⟨hlt, -⟩ | ⟨-, -, e⟩ | ⟨hge, hlt⟩ | ⟨-, e⟩
  · exact absurd (.inl hlt) htx
  · simp [e, Reg.isWritable, Reg.isTx]
  · obtain ⟨n, hn⟩ : ∃ n, a.toNat = n := ⟨_, rfl⟩
    obtain rfl : a = BitVec.ofNat 12 n := by simp [← hn]
    rw [hn] at hge hlt
    unfold IsTxIndex at htx
    interval_cases n <;> revert htx hcmd hst <;> decide
  · simp [e, Reg.isWritable, Reg.isTx]

/-- The state behind a host write at any index but CMD's, u being the state the sequencer's action leaves and e saying
whether ENCODE runs: every field that the write can change, with its value (R203, R207, R208). -/
def stored (e : Bool) (a : Index) (w : Word) (u : State) : State :=
  { u with
    txMeta := if a = 0x205#12 ∧ e = false then w.setWidth 8 else u.txMeta
    txType := if a = 0x206#12 ∧ e = false then w.setWidth 8 else u.txType
    txLen := if a = 0x207#12 ∧ e = false then w else u.txLen
    ovr :=
      if e = true ∧ (a.toNat < 0x100 ∨ a = 0x205#12 ∨ a = 0x206#12 ∨ a = 0x207#12) then true
      else if a = 0x201#12 ∧ w.getLsbD 3 = true then false else u.ovr
    mem := if e = false ∧ a.toNat < 0x100 then u.mem.write (txIndex a.toNat) (w.setWidth 8) else u.mem }

theorem writeStatus_of_set {w : Word} (h : w.getLsbD 3 = true) (s : State) :
    writeStatus w s = { s with ovr := false } := if_pos h

theorem writeStatus_of_clear {w : Word} (h : w.getLsbD 3 = false) (s : State) : writeStatus w s = s :=
  if_neg (by rw [h]; decide)

theorem index_ne_of_lt {a b : Index} (ha : a.toNat < 0x100) (hb : 0x100 ≤ b.toNat) : a ≠ b := by
  rintro rfl
  omega

theorem hostWrite_txbuf_eq_stored {a : Index} (h : a.toNat < 0x100) (e : Bool) (w : Word) (u : State) :
    hostWrite e a w u = stored e a w u := by
  have hmod : a.toNat % 256 = a.toNat := by omega
  have h1 : a ≠ 0x201#12 := index_ne_of_lt h (by decide)
  have h5 : a ≠ 0x205#12 := index_ne_of_lt h (by decide)
  have h6 : a ≠ 0x206#12 := index_ne_of_lt h (by decide)
  have h7 : a ≠ 0x207#12 := index_ne_of_lt h (by decide)
  cases e <;> simp [hostWrite, regAt_txbuf h, txWrite, writeTx, setOvr, stored, h, hmod, h1, h5, h6, h7]

theorem hostWrite_status_eq_stored (e : Bool) (w : Word) (u : State) :
    hostWrite e 0x201#12 w u = stored e 0x201#12 w u := by
  have hstatus : hostWrite e 0x201#12 w u = writeStatus w u := rfl
  rw [hstatus]
  cases hbit : w.getLsbD 3 with
  | true =>
    rw [writeStatus_of_set hbit]
    cases e <;> simp only [stored, hbit] <;> rfl
  | false =>
    rw [writeStatus_of_clear hbit]
    cases e <;> simp only [stored, hbit] <;> rfl

/-- `HostWrite` of every index but CMD's, as one update of the state (R203). -/
theorem hostWrite_eq_stored {a : Index} (ha : a ≠ Config.cmdIndex) (e : Bool) (w : Word) (u : State) :
    hostWrite e a w u = stored e a w u := by
  by_cases htx : IsTxIndex a
  · obtain hlt | rfl | rfl | rfl := htx
    · exact hostWrite_txbuf_eq_stored hlt e w u
    all_goals cases e <;> rfl
  · by_cases hst : a = 0x201#12
    · subst hst
      exact hostWrite_status_eq_stored e w u
    · rw [hostWrite_of_not_isWritable (regAt_not_isWritable htx ha hst)]
      obtain ⟨hlt, h5, h6, h7⟩ : ¬ a.toNat < 0x100 ∧ a ≠ 0x205#12 ∧ a ≠ 0x206#12 ∧ a ≠ 0x207#12 := by
        simpa only [IsTxIndex, not_or] using htx
      simp [stored, hlt, h5, h6, h7, hst]

theorem stored_read (e : Bool) (a : Index) (w : Word) (u : State) (k : Nat) :
    (stored e a w u).mem.read k =
      if e = false ∧ a.toNat < 0x100 ∧ k = a.toNat then some (w.setWidth 8) else u.mem.read k := by
  by_cases h : e = false ∧ a.toNat < 0x100
  · obtain ⟨he, ha⟩ := h
    simp [stored, he, ha, Memory.read_write, txIndex]
  · have h' : ¬ (e = false ∧ a.toNat < 0x100 ∧ k = a.toNat) := fun ⟨he, ha, _⟩ => h ⟨he, ha⟩
    rw [if_neg h']
    simp only [stored, if_neg h]

/-- OVR falls at a host write only when STATUS is written with bit 3 set (R208). -/
theorem status_of_stored_clears_ovr {e : Bool} {a : Index} {w : Word} {u : State} (hu : u.ovr = true)
    (h : (stored e a w u).ovr = false) : a = 0x201#12 ∧ w.getLsbD 3 = true := by
  by_contra hno
  simp only [stored, if_neg hno] at h
  split at h
  · cases h
  · exact Bool.false_ne_true (h.symm.trans hu)

/-- A write step is the step without an access, then `HostWrite`, if `HostWrite` changes nothing after a reset. -/
theorem writeStep_eq_mapNext {a : Index} {w : Word} {s : State}
    (hreset : s.input.rst = true → hostWrite s.encBusy a w (resetStep s) = resetStep s) :
    writeStep a w s = mapNext (hostWrite s.encBusy a w) (skipStep s) := by
  cases hr : s.input.rst with
  | true =>
    have hskip : skipStep s = .next (resetStep s) := skipStep_next.2 (.inl ⟨hr, rfl⟩)
    rw [hskip, mapNext, hreset hr]
    exact writeStep_next.2 (.inl ⟨hr, rfl⟩)
  | false =>
    cases hu : phaseStep s.input (beginStep s) with
    | ok u =>
      have hskip : skipStep s = .next u := skipStep_next.2 (.inr ⟨hr, hu⟩)
      rw [hskip]
      exact writeStep_next.2 (.inr ⟨hr, u, hu, rfl⟩)
    | error f =>
      have hskip : skipStep s = .fault f := inStep_fault.2 ⟨hr, hu⟩
      rw [hskip]
      exact inStep_fault.2 ⟨hr, by simp only [hu]⟩

theorem writeStep_of_runs {a : Index} {w : Word} {s : State} (hr : Runs s) :
    writeStep a w s = mapNext (hostWrite s.encBusy a w) (skipStep s) :=
  writeStep_eq_mapNext fun hrst => absurd (hr.symm.trans hrst) Bool.false_ne_true

/-- Settles O17: the write beside the running step stores what `stored` lists. -/
theorem writeEffectInEveryPhase : Obligations.WriteEffectInEveryPhase := by
  unfold Obligations.WriteEffectInEveryPhase
  intro a w s t hr hskip ha
  have hskip' : skipStep s = .next t := hskip
  have hexec : exec (.hostWr a w) s = .next (stored s.encBusy a w t) := by
    rw [exec_hostWr_of_ne ha, writeStep_of_runs hr, hskip', mapNext, hostWrite_eq_stored ha]
  exact ⟨_, hexec, rfl, rfl, rfl, rfl, stored_read s.encBusy a w t, rfl, rfl, rfl, ⟨rfl, rfl, rfl, rfl, rfl, rfl⟩,
    ⟨rfl, rfl⟩, ⟨rfl, rfl, rfl, rfl, rfl⟩, rfl, rfl, rfl, rfl, rfl, rfl, rfl, rfl⟩

theorem mapNext_self (o : Host.Outcome State Fault Refusal) : mapNext (fun t => t) o = o := by
  cases o <;> rfl

/-- A reset leaves no OVR to clear (R49, R208). -/
theorem writeStatus_resetStep (w : Word) (s : State) : writeStatus w (resetStep s) = resetStep s := by
  unfold writeStatus
  split <;> rfl

/-- Settles O20: `HostWrite` of STATUS after the step without an access, reset steps included. -/
theorem statusWriteClearsOvrOnly : Obligations.StatusWriteClearsOvrOnly := by
  unfold Obligations.StatusWriteClearsOvrOnly
  intro w s
  have hstep : exec (.hostWr 0x201#12 w) s = mapNext (writeStatus w) (exec skipInstr s) :=
    (exec_hostWr_of_ne (by decide) w s).trans (writeStep_eq_mapNext fun _ => writeStatus_resetStep w s)
  rw [hstep]
  cases hbit : w.getLsbD 3 with
  | true => rw [if_pos rfl, funext (writeStatus_of_set hbit)]
  | false =>
    rw [if_neg Bool.false_ne_true, funext (writeStatus_of_clear hbit)]
    exact mapNext_self (exec skipInstr s)

/-! ### Steps on an idle block -/

theorem skipStep_of_idle {s : State} (hr : Runs s) (hp : s.phase = .idle) : skipStep s = .next (beginStep s) := by
  refine skipStep_of_phaseStep hr ?_
  simp only [phaseStep, beginStep_phase, hp]

/-- Settles O13: the step is no more than its beginning. -/
theorem skipLeavesIdleBlock : Obligations.SkipLeavesIdleBlock := by
  unfold Obligations.SkipLeavesIdleBlock
  intro we a wd s hr hp
  exact ⟨beginStep s, skipStep_of_idle hr hp, beginStep_unchanged s⟩

/-- Settles O18: O17 over an idle block, where the step without an access does nothing. -/
theorem writeCompletesWhenIdle : Obligations.WriteCompletesWhenIdle := by
  unfold Obligations.WriteCompletesWhenIdle
  intro a w s hr hp ha
  have hbusy : s.encBusy = false := by simp [State.encBusy, hp]
  obtain ⟨u, hexec, hmeta, htype, hlen, hovr, hmem, hdone, hvalid, hcode, hseq, hsum, hrx, hchan, hsent, hports⟩ :=
    writeEffectInEveryPhase a w s (beginStep s) hr (skipStep_of_idle hr hp) ha
  simp only [hbusy, and_true, true_and, Bool.false_eq_true, false_and, if_false] at hmeta htype hlen hovr hmem
  obtain ⟨htake, htx, hdata, hread, hparams, hinputs⟩ := hports
  exact ⟨u, hexec, hmeta, htype, hlen, hovr, hmem, hdone, hvalid, hcode, hseq, hsum, hrx, ⟨hchan, hsent⟩,
    ⟨htake, htx, hdata, hread⟩, hparams, hinputs⟩

/-- Below 0x200 a read is that of a buffer entry (R27, R202). -/
theorem hostRead_buffer {a : Index} (h : a.toNat < 0x200) (s : State) : hostRead s a = readBuffer s a := by
  rcases regAt_cases a with ⟨-, e⟩ | ⟨-, -, e⟩ | ⟨hge, -⟩ | ⟨hge, -⟩
  · simp [hostRead, e]
  · simp [hostRead, e]
  all_goals omega

theorem hostRead_written {a : Index} {s : State} {b : Byte} (h : a.toNat < 0x200) (hb : s.mem.read a.toNat = some b) :
    hostRead s a = .ok (b.setWidth 32) := by
  rw [hostRead_buffer h, readBuffer, hb]

theorem readStep_of_idle {a : Index} {s : State} {v : Word} (hr : Runs s) (hp : s.phase = .idle)
    (hv : hostRead s a = .ok v) : readStep a s = .next { beginStep s with regRdata := v } :=
  readStep_next.2 (.inr ⟨hr, v, beginStep s, hv, by simp only [phaseStep, beginStep_phase, hp], rfl⟩)

/-- Settles O14: what `hostRead` gives at each index, and the step on an idle block. -/
theorem readReturnsRegister : Obligations.ReadReturnsRegister := by
  unfold Obligations.ReadReturnsRegister
  intro a wd v s hr hp hv
  have hread : hostRead s a = .ok v := by
    obtain ⟨b, ha, hb, rfl⟩ | ⟨rfl, rfl⟩ | ⟨rfl, rfl⟩ | ⟨rfl, rfl⟩ | ⟨rfl, rfl⟩ | ⟨rfl, rfl⟩ | ⟨rfl, rfl⟩ | ⟨rfl, rfl⟩ |
      ⟨rfl, rfl⟩ | ⟨rfl, rfl⟩ | ⟨rfl, rfl⟩ | ⟨rfl, rfl⟩ | ⟨rfl, rfl⟩ | ⟨rfl, rfl⟩ | ⟨rfl, rfl⟩ | ⟨ha, rfl⟩ := hv
    · exact hostRead_written ha hb
    iterate 14 rfl
    exact hostRead_reserved ha s
  obtain ⟨hseq, hsum, hflags, htx, hrx, hmem, hstreams, -, hadvanced⟩ := beginStep_unchanged s
  exact ⟨_, readStep_of_idle hr hp hread, rfl, rfl, rfl, rfl, hseq, hsum, hflags, htx, hrx, hmem, hstreams, hadvanced⟩

/-! ### NOP and the illegal commands -/

/-- Settles O3: the step in IDLE, the dropped write, and the decoder at OP 0. -/
theorem nopDoesNothing : Obligations.NopDoesNothing := by
  unfold Obligations.NopDoesNothing
  intro lo arg hi s hr
  refine ⟨fun hp => ?_, fun hp => commandStep_of_busy hr hp, fun w hop => by simp [decodeCmd, hop], by decide,
    by decide⟩
  exact ⟨beginStep s, commandStep_of_idle hr hp, beginStep_unchanged s, rfl⟩

/-- The eleven commands without a meaning, with the same operand bits (R91, R206). -/
def illegalCommands (lo : BitVec 4) (arg : Byte) (hi : BitVec 16) : List Instr :=
  [.illegal5 lo arg hi, .illegal6 lo arg hi, .illegal7 lo arg hi, .illegal8 lo arg hi, .illegal9 lo arg hi,
    .illegalA lo arg hi, .illegalB lo arg hi, .illegalC lo arg hi, .illegalD lo arg hi, .illegalE lo arg hi,
    .illegalF lo arg hi]

theorem exec_of_illegal {lo : BitVec 4} {arg : Byte} {hi : BitVec 16} {i : Instr} (h : i ∈ illegalCommands lo arg hi)
    (s : State) : exec i s = commandStep illegalStart s := by
  simp only [illegalCommands, List.mem_cons, List.not_mem_nil, or_false] at h
  obtain rfl | rfl | rfl | rfl | rfl | rfl | rfl | rfl | rfl | rfl | rfl := h <;> rfl

theorem decodeCmd_illegal {w : Word} (h : 0x5 ≤ (cmdOp w).toNat) :
    decodeCmd w ∈ illegalCommands (cmdLo w) (cmdArg w) (cmdHi w) := by
  have hlt : (cmdOp w).toNat < 16 := (cmdOp w).isLt
  obtain ⟨n, hn⟩ : ∃ n, (cmdOp w).toNat = n := ⟨_, rfl⟩
  rw [hn] at h hlt
  interval_cases n <;> simp [decodeCmd, hn, illegalCommands]

/-- Settles O6: the step in IDLE, the dropped write, and the decoder from OP 5 on. -/
theorem illegalCommandsEndAtOnce : Obligations.IllegalCommandsEndAtOnce := by
  unfold Obligations.IllegalCommandsEndAtOnce
  intro lo arg hi s hr
  refine ⟨fun i hmem => ?_, fun w => decodeCmd_illegal⟩
  rw [exec_of_illegal hmem]
  refine ⟨fun hp => ?_, fun hp => commandStep_of_busy hr hp⟩
  obtain ⟨hdone, hcode, hbusy, hvalid, hovr, hseq, hrest⟩ := finish_commandEnded .illegalCmd s.acc s.pos hp
  exact ⟨_, commandStep_of_idle hr hp, hdone, hcode, hbusy, hvalid, hovr, hseq, ⟨rfl, rfl⟩, hrest⟩

/-! ### Writes while a command runs -/

/-- Settles O10: both are the command step of the word. -/
theorem cmdWriteIsItsCommand : Obligations.CmdWriteIsItsCommand := by
  unfold Obligations.CmdWriteIsItsCommand
  exact fun w s => (exec_hostWr_cmd w s).trans (exec_decodeCmd w s).symm

/-- While ENCODE runs a write of what it sends sets OVR and is dropped (R207). -/
theorem hostWrite_of_busy {a : Index} (h : IsTxIndex a) (w : Word) (u : State) : hostWrite true a w u = setOvr u := by
  obtain hlt | rfl | rfl | rfl := h
  · simp [hostWrite, regAt_txbuf hlt, txWrite]
  all_goals rfl

theorem ne_cmdIndex_of_isTxIndex {a : Index} (h : IsTxIndex a) : a ≠ Config.cmdIndex := by
  rintro rfl
  revert h
  unfold IsTxIndex
  decide

@[simp] theorem dispatch_ovr (w : Word) (s : State) : (dispatch w s).ovr = s.ovr := by
  rcases dispatch_cases w s with ⟨-, e⟩ | ⟨-, e⟩ | ⟨-, e⟩ | ⟨-, e⟩ | ⟨-, e⟩ | ⟨-, e⟩ <;> rw [e]
  case inr.inr.inl => rcases encodeStart_cases s with ⟨-, e⟩ | ⟨-, e⟩ <;> rw [e] <;> rfl
  all_goals rfl

theorem phaseStep_ovr {inp : StepIn} {s u : State} (h : phaseStep inp s = .ok u) : u.ovr = s.ovr := by
  obtain ⟨-, hovr, -⟩ := phaseStep_frame h
  exact hovr

/-- OVR is sticky: of the shapes of a next state (`exec_next`) reset and a write of STATUS alone clear it (R207). -/
theorem exec_clears_ovr {i : Instr} {s t : State} (hs : s.ovr = true) (h : exec i s = .next t) (ht : t.ovr = false) :
    s.input.rst = true ∨ ∃ w : Word, w.getLsbD 3 = true ∧ i = .hostWr 0x201#12 w := by
  rcases exec_next h with ⟨hrst, -⟩ | ⟨-, ⟨-, w, -, rfl⟩ | ⟨u, hu, haccess⟩ | ⟨c, -, hu⟩⟩
  · exact .inl hrst
  · exact not_fall_of_eq (dispatch_ovr w (beginStep s)) hs ht
  · have hovr : u.ovr = s.ovr := phaseStep_ovr (s := beginStep s) hu
    rcases haccess with ⟨-, -, rfl⟩ | ⟨_, _, v, -, -, rfl⟩ | ⟨a, w, ha, rfl, rfl⟩ | ⟨_, _, _, -, rfl⟩
    · exact not_fall_of_set rfl ht
    · exact not_fall_of_eq hovr hs ht
    · rw [hostWrite_eq_stored ha] at ht
      obtain ⟨rfl, hbit⟩ := status_of_stored_clears_ovr (hovr.trans hs) ht
      exact .inr ⟨w, hbit, rfl⟩
    · exact not_fall_of_eq hovr hs ht
  · exact not_fall_of_eq (phaseStep_ovr hu) hs ht

/-- Settles O12: the two dropped writes, the only ways to clear OVR, and what ENCODE sends by O41. -/
theorem busyWritesOnlySetOvr : Obligations.BusyWritesOnlySetOvr := by
  unfold Obligations.BusyWritesOnlySetOvr
  refine ⟨fun w s hr hp => ?_, fun a w s hr hbusy ha => ?_, fun i s t => exec_clears_ovr, fun i s t hr hbusy h => ?_⟩
  · rw [exec_decodeCmd]
    exact commandStep_of_busy hr hp
  · rw [exec_hostWr_of_ne (ne_cmdIndex_of_isTxIndex ha), writeStep_of_runs hr, hbusy, funext (hostWrite_of_busy ha w)]
    rfl
  · rcases txStateChangesOnlyByHostWrite i s t h with hsame | hrst | ⟨hidle, -⟩
    · exact hsame
    · exact absurd (hr.symm.trans hrst) Bool.false_ne_true
    · exact absurd (hbusy.symm.trans hidle) (by decide)

/-! ### The instruction that a step runs -/

/-- A step runs what its transaction decodes to: if it takes a TYPE byte, that is the step without an access (R201). -/
theorem step_eq_exec_decodePort (s : State) : step s = exec (decodePort s.input.port) s := by
  rcases decodePort_cases s.input.port with ⟨hsel, e⟩ | ⟨hsel, -⟩ | ⟨hsel, -⟩ | ⟨hsel, -⟩
  · rw [step_of_noAccess hsel, e]
    rfl
  all_goals
    rcases fetch_cases s with ⟨-, e⟩ | ⟨h0, -⟩ | ⟨h0, -⟩
    · rw [step, e]
    all_goals simp [hsel] at h0

/-- The transaction that carries a well-formed instruction decodes to it (R90, R210). -/
theorem decodePort_of_asPort {i : Instr} {w : PortWord} (hwf : i.wellFormed = true)
    (h : (encode i).asPort = some w) : decodePort w = i := by
  cases he : encode i with
  | cmd c =>
    rw [he] at h
    obtain rfl : portWr Config.cmdIndex c = w := Option.some.inj h
    exact (decodePort_cmdWrite c).trans (eq_decodeCmd_of_encode he).symm
  | port p =>
    rw [he] at h
    obtain rfl : p = w := Option.some.inj h
    exact decodePort_of_encode hwf he
  | wireType b =>
    rw [he] at h
    cases h

theorem step_of_asPort {s : State} {i : Instr} (hwf : i.wellFormed = true)
    (h : (encode i).asPort = some s.input.port) : step s = exec i s := by
  rw [step_eq_exec_decodePort, decodePort_of_asPort hwf h]

theorem step_of_typeTaken {s : State} {b : Byte} {i : Instr} (hsel : portSel s.input.port = 0#1)
    (hb : typeTaken s = some b) (hi : decodeType b = .ok i) : step s = exec i s :=
  (step_of_noAccess hsel).trans (exec_of_typeTaken hb hi).symm

theorem typeTaken_setType (b : Byte) (s : State) : typeTaken (setType b s) = some b := rfl

/-- Settles O33: a placed command or transaction is the port's, a placed TYPE byte the one that is taken. -/
theorem stepRunsDecodedInstruction : Obligations.StepRunsDecodedInstruction := by
  unfold Obligations.StepRunsDecodedInstruction
  refine ⟨fun s i => step_of_asPort, fun s b i => step_of_typeTaken, fun s i hwf => ?_⟩
  cases he : encode i with
  | cmd w => exact step_of_asPort hwf (congrArg Encoded.asPort he)
  | port w => exact step_of_asPort hwf (congrArg Encoded.asPort he)
  | wireType b => exact step_of_typeTaken portSel_portSkip (typeTaken_setType b s) (decodeType_of_encode he)

/-! ### A WAIT_DONE that polls for ever -/

/-- Where the host drives the port of a step, the other inputs of the steps to come stay. -/
theorem Searching.drivePort {s : State} (h : Searching s) {w : PortWord} (hw : w = portSkip ∨ w = portRd 0x201#12) :
    Searching (drivePort w s) := by
  refine ⟨h.phase, fun i hi => ?_, h.noMarker⟩
  obtain rfl | hi := List.mem_cons.1 hi
  · obtain ⟨hrst, hexp, harr, -⟩ := input_poll h.polls
    exact ⟨hrst, hexp, harr, hw⟩
  · exact h.polls i (List.mem_of_mem_tail hi)

/-- STATUS shows DONE in bit 1 (R31), the bit for which WAIT_DONE polls (R211). -/
theorem status_and_done {s : State} (h : s.done = false) : s.status &&& 0x2#32 = 0x0#32 := by
  obtain ⟨-, hbit, -⟩ := status_flag_bits s
  have hmask : 0x2#32 = BitVec.twoPow 32 1 := by decide
  rw [hmask, BitVec.and_twoPow, hbit, h]
  rfl

/-- A step with a read of STATUS reads it at the start of the step (R26). -/
theorem regRdata_of_statusRead {s t : State} (hr : Runs s) (hport : s.input.port = portRd 0x201#12)
    (h : step s = .next t) : t.regRdata = s.status := by
  rw [step_of_portRd hport] at h
  rcases readStep_next.1 h with ⟨hrst, -⟩ | ⟨-, v, u, hv, -, rfl⟩
  · exact absurd (hr.symm.trans hrst) Bool.false_ne_true
  · exact (Except.ok.inj hv).symm

/-- A host in a WAIT_DONE at the start of its program, over a search that does not end: at the read of STATUS, or at the
branch with a value in which DONE is 0 (R211, R212). -/
structure Waiting (rT : Nat) (r : HostRun) : Prop where
  prog : ∃ more, r.prog = waitDone 0 rT ++ more
  place : r.pc = 0 ∨ (r.pc = 1 ∧ localValue r.locals rT &&& 0x2#32 = 0x0#32)
  searching : Searching r.block
  notDone : r.block.done = false

/-- From either place the next transaction is the read of STATUS. -/
theorem Waiting.move {rT : Nat} {r : HostRun} (h : Waiting rT r) :
    r.move = .access (portRd 0x201#12) (some rT) 1 := by
  obtain ⟨more, hprog⟩ := h.prog
  rcases h.place with hpc | ⟨hpc, hlocal⟩
  · simp [HostRun.move, hprog, hpc, waitDone, nextMove]
  · simp [HostRun.move, hprog, hpc, waitDone, nextMove, hlocal]

/-- A step of the block in which the host makes no access or reads STATUS, as the search sees it. -/
theorem Waiting.block_step {rT : Nat} {r : HostRun} (h : Waiting rT r) {w : PortWord}
    (hw : w = portSkip ∨ w = portRd 0x201#12) :
    ∃ t, Machine.step (drivePort w r.block) = .next t ∧ Searching t ∧ t.done = false := by
  obtain ⟨t, hstep, ht, ⟨hdone, -⟩, -⟩ := (h.searching.drivePort hw).step
  exact ⟨t, hstep, ht, hdone.trans h.notDone⟩

/-- Every step of such a host leaves it waiting, whether it lets the step pass or polls. -/
theorem Waiting.step {rT : Nat} {r : HostRun} (h : Waiting rT r) : ∃ r', r.step = some (.next r') ∧ Waiting rT r' := by
  rcases r.step_cases with ⟨hmove, -⟩ | ⟨-, hstep⟩ | ⟨w, dest, pc, hmove, -, hstep⟩
  · rw [h.move] at hmove
    cases hmove
  · obtain ⟨t, ht, hsearch, hdone⟩ := h.block_step (.inl rfl)
    have hpause : r.pause = .next (r.after none r.pc t) := HostRun.transact_next.2 ⟨t, ht, rfl⟩
    exact ⟨_, hstep.trans (congrArg some hpause), h.prog, h.place, hsearch, hdone⟩
  · rw [h.move] at hmove
    cases hmove
    obtain ⟨t, ht, hsearch, hdone⟩ := h.block_step (.inr rfl)
    have hpoll : r.transact (portRd 0x201#12) (some rT) 1 = .next (r.after (some rT) 1 t) :=
      HostRun.transact_next.2 ⟨t, ht, rfl⟩
    obtain ⟨hrst, -⟩ := input_poll (h.searching.drivePort (.inr rfl)).polls
    have hread : t.regRdata = (drivePort (portRd 0x201#12) r.block).status := regRdata_of_statusRead hrst rfl ht
    refine ⟨_, hstep.trans (congrArg some hpoll), h.prog, .inr ⟨rfl, ?_⟩, hsearch, hdone⟩
    rw [HostRun.after_locals_some, localValue_written, hread]
    exact status_and_done h.notDone

theorem Waiting.steps (n : Nat) {rT : Nat} {r : HostRun} (h : Waiting rT r) :
    ∃ r', HostRun.steps n r = some r' ∧ Waiting rT r' := by
  induction n generalizing r with
  | zero => exact ⟨r, rfl, h⟩
  | succ n ih =>
    obtain ⟨r', hstep, h'⟩ := h.step
    obtain ⟨r'', hsteps, h''⟩ := ih h'
    exact ⟨r'', (HostRun.steps_succ n hstep).trans hsteps, h''⟩

/-- Settles O59: `Waiting` holds at the start, each step keeps it, and a waiting host has a next step. -/
theorem waitDoneOnHangNeverHalts : Obligations.WaitDoneOnHangNeverHalts := by
  unfold Obligations.WaitDoneOnHangNeverHalts
  intro n rT more r hprog hpc hphase hdone hpolls hmark
  have hwait : Waiting rT r := ⟨⟨more, hprog⟩, .inl hpc, ⟨hphase, hpolls, hmark⟩, hdone⟩
  obtain ⟨r', hsteps, h'⟩ := hwait.steps n
  obtain ⟨r'', hstep, -⟩ := h'.step
  exact ⟨r', hsteps, by simp [hstep], h'.searching.phase, h'.notDone⟩

/-! ### The host's pace -/

/-- The state with the outputs of its last step at the values with which a step begins (R201). -/
def outputsCleared (s : State) : State :=
  { s with rxTake := false, txValid := false, txData := 0#8, regRdata := 0#32 }

/-- No instruction reads the outputs of the step before (log entry 15). -/
theorem exec_outputsCleared (i : Instr) (s : State) : exec i (outputsCleared s) = exec i s := by
  rcases exec_kind i with ⟨w, -, k⟩ | ⟨a, wd, -, k⟩ | ⟨w, -, k⟩ | ⟨a, w, -, -, k⟩ | ⟨we, a, wd, -, k⟩ | ⟨c, -, k⟩ <;>
    rw [k, k] <;> rfl

theorem step_outputsCleared (s : State) : step (outputsCleared s) = step s := exec_outputsCleared (fetch s) s

theorem HostRun.transact_outputsCleared (r : HostRun) (w : PortWord) (dest : Option Nat) (pc : Nat) :
    { r with block := outputsCleared r.block }.transact w dest pc = r.transact w dest pc := by
  have hstep : Machine.step (drivePort w (outputsCleared r.block)) = Machine.step (drivePort w r.block) :=
    step_outputsCleared (drivePort w r.block)
  unfold HostRun.transact
  rw [hstep]
  rfl

/-- So a host's step does not depend on them either. -/
theorem HostRun.step_outputsCleared (r : HostRun) : { r with block := outputsCleared r.block }.step = r.step := by
  have hmove : { r with block := outputsCleared r.block }.move = r.move := rfl
  have hpausing : { r with block := outputsCleared r.block }.pausing = r.pausing := rfl
  have hpause : { r with block := outputsCleared r.block }.pause = r.pause :=
    r.transact_outputsCleared portSkip none r.pc
  unfold HostRun.step
  rw [hmove, hpausing, hpause]
  cases r.move with
  | halted => rfl
  | spins => rfl
  | access w dest pc => simp only [r.transact_outputsCleared w dest pc]

/-- A step that the host lets pass moves the block alone (R209). -/
theorem HostRun.step_of_pause {r : HostRun} {t : State} {later : List Bool} (hp : r.pauses = true :: later)
    (hm : r.move ≠ .halted) (ht : Machine.step (drivePort portSkip r.block) = .next t) :
    r.step = some (.next { r with pauses := later, block := t }) := by
  have hpause : r.pause = .next (r.after none r.pc t) := HostRun.transact_next.2 ⟨t, ht, rfl⟩
  have hafter : r.after none r.pc t = { r with pauses := later, block := t } := by simp [HostRun.after, hp]
  rw [HostRun.step_of_pausing hm (by simp [HostRun.pausing, hp]), hpause, hafter]

/-- The host with k pauses before its own, over k quiet inputs before the block's own. -/
def HostRun.delayed (k : Nat) (r : HostRun) : HostRun :=
  { r with
    pauses := List.replicate k true ++ r.pauses
    block := { r.block with inputs := List.replicate k StepIn.quiet ++ r.block.inputs } }

@[simp] theorem HostRun.delayed_zero (r : HostRun) : HostRun.delayed 0 r = r := rfl

/-- To drive no access in a quiet step is to leave its inputs as they are. -/
theorem drivePort_of_quiet {s : State} {later : List StepIn} (hin : s.inputs = StepIn.quiet :: later) :
    drivePort portSkip s = s := by
  have hinputs : { s.input with port := portSkip } :: s.inputs.tail = s.inputs := by
    rw [input_of_inputs hin, hin]
    rfl
  rw [drivePort, hinputs]

/-- A quiet step without an access over an idle block clears its outputs and uses up its input (R209). -/
theorem step_quiet_of_idle {s : State} {later : List StepIn} (hp : s.phase = .idle)
    (hin : s.inputs = StepIn.quiet :: later) :
    step (drivePort portSkip s) = .next { outputsCleared s with inputs := later } := by
  obtain ⟨hr, -, -, hstep⟩ := step_of_quiet hin
  have harrive : s.input.arrive = [] := by rw [input_of_inputs hin]; rfl
  rw [drivePort_of_quiet hin, hstep, skipStep_of_idle hr hp, beginStep_of_noArrival harrive, hin]
  rfl

/-- One pause of a delayed host (R209). -/
theorem HostRun.delayed_step (k : Nat) {r : HostRun} (hp : r.block.phase = .idle) (hm : r.move ≠ .halted) :
    (r.delayed (k + 1)).step =
      some (.next ({ r with block := outputsCleared r.block }.delayed k)) :=
  HostRun.step_of_pause (r := r.delayed (k + 1)) rfl hm (step_quiet_of_idle hp rfl)

/-- A host that has ended makes no step, delayed or not. -/
theorem HostRun.steps_of_halted {r : HostRun} (n : Nat) (h : r.move = .halted) : HostRun.steps (n + 1) r = none := by
  rcases r.step_cases with ⟨-, hstep⟩ | ⟨hspins | ⟨hgoes, -⟩, -⟩ | ⟨w, dest, pc, hmove, -, -⟩
  · rw [HostRun.steps, hstep]
  · rw [h] at hspins
    cases hspins
  · exact absurd h hgoes
  · rw [h] at hmove
    cases hmove

/-- The pauses over an idle block change nothing in the rest of the run. -/
theorem HostRun.steps_delayed (k n : Nat) {r : HostRun} (hp : r.block.phase = .idle) :
    HostRun.steps (k + (n + 1)) (r.delayed k) = HostRun.steps (n + 1) r := by
  induction k generalizing r with
  | zero => rw [Nat.zero_add, HostRun.delayed_zero]
  | succ k ih =>
    by_cases hm : r.move = .halted
    · rw [HostRun.steps_of_halted n hm]
      exact HostRun.steps_of_halted (k + 1 + n) (r := r.delayed (k + 1)) hm
    · rw [Nat.add_right_comm, HostRun.steps_succ _ (HostRun.delayed_step k hp hm),
        ih (r := { r with block := outputsCleared r.block }) hp, HostRun.steps, HostRun.steps,
        HostRun.step_outputsCleared]

/-- Settles O60: one pause in any phase, and k pauses over an idle block. -/
theorem hostPaceIsFree : Obligations.HostPaceIsFree := by
  unfold Obligations.HostPaceIsFree
  refine ⟨fun r t later => HostRun.step_of_pause, fun k n later more r hp hpauses hinputs => ?_⟩
  subst hpauses hinputs
  exact HostRun.steps_delayed k n hp

end Sys2Proof.Machine
end

section
/-!
PROOFS. The reset and hazards family: a step with rst = 1 under any instruction, and the faults of a program that reads
a buffer entry never written since reset.
-/
namespace Sys2Proof.Machine

/-! ### Never-written entries -/

/-- A read step faults where its read does, whatever the sequencer's action would do: the read comes first (R201). -/
theorem readStep_of_hostRead_error {a : Index} {s : State} {f : Fault} (hr : Runs s) (hread : hostRead s a = .error f) :
    readStep a s = .fault f := by
  refine inStep_fault.2 ⟨hr, ?_⟩
  simp only [hostRead_beginStep, hread]

theorem hostRead_of_unwritten {a : Index} {s : State} (ha : a.toNat < 0x200) (hnone : s.mem.read a.toNat = none) :
    hostRead s a = .error (.readNeverWritten a) := by
  rw [hostRead_buffer ha]
  exact readBuffer_error.2 ⟨hnone, rfl⟩

theorem readTx_of_unwritten {s : State} {k : Nat} (hk : k < 256) (hnone : s.mem.read k = none) :
    readTx s k = .error (.encodeNeverWritten k) := by
  rw [readTx, if_pos (show k < Config.bufSize from hk), txIndex, hnone]

/-- A step without an access faults where the sequencer's action does (R201). -/
theorem skipStep_of_phaseStep_error {s : State} {f : Fault} (hr : Runs s)
    (hphase : phaseStep s.input (beginStep s) = .error f) : skipStep s = .fault f := inStep_fault.2 ⟨hr, hphase⟩

theorem calcStep_of_readTx_error {s : State} {f : Fault} (hread : readTx s s.cnt.toNat = .error f) :
    calcStep s = .error f := by
  rw [calcStep, hread]

theorem emitStep_of_frameByte_error {s : State} {f : Fault} (hbyte : frameByte s s.eidx.toNat = .error f) :
    emitStep s = .error f := by
  rw [emitStep, hbyte]

theorem skipStep_calc_of_unwritten {s : State} (hr : Runs s) (hp : s.phase = .calc) (hcnt : s.cnt.toNat < 256)
    (hnone : s.mem.read s.cnt.toNat = none) : skipStep s = .fault (.encodeNeverWritten s.cnt.toNat) := by
  refine skipStep_of_phaseStep_error hr ?_
  simp only [phaseStep, beginStep_phase, hp]
  exact calcStep_of_readTx_error (readTx_of_unwritten (s := beginStep s) hcnt hnone)

/-- Behind the header, at content byte k, EMIT reads TXBUF[k] (R184). -/
theorem skipStep_emit_of_unwritten {s : State} {k : Nat} (hr : Runs s) (hp : s.phase = .emit)
    (heidx : s.eidx.toNat = k + s.params.overhead) (hk : k < 256) (hnone : s.mem.read k = none) :
    skipStep s = .fault (.encodeNeverWritten k) := by
  have hbyte : frameByte (beginStep s) s.eidx.toNat = .error (.encodeNeverWritten k) := by
    rw [heidx]
    exact (frameByte_content (beginStep s) k).trans (readTx_of_unwritten (s := beginStep s) hk hnone)
  refine skipStep_of_phaseStep_error hr ?_
  simp only [phaseStep, beginStep_phase, hp]
  exact emitStep_of_frameByte_error hbyte

/-- Settles O16: the host's read, in every phase, and the two phases of ENCODE that read TXBUF. -/
theorem neverWrittenEntriesFault : Obligations.NeverWrittenEntriesFault := by
  unfold Obligations.NeverWrittenEntriesFault
  refine ⟨fun a wd s hr ha hnone => ?_, fun s hr hp hcnt hnone => ?_, fun s k hr hp heidx hk hnone => ?_⟩
  · exact readStep_of_hostRead_error hr (hostRead_of_unwritten ha hnone)
  · exact skipStep_calc_of_unwritten hr hp hcnt hnone
  · exact skipStep_emit_of_unwritten hr hp (heidx.trans (Nat.add_comm _ k)) hk hnone

/-! ### The reset step -/

/-- Settles O2: under every instruction the step answers `resetStep s` (`exec_reset`), the reset state but for its
streams and inputs. -/
theorem resetStepOverridesEverything : Obligations.ResetStepOverridesEverything := by
  unfold Obligations.ResetStepOverridesEverything
  intro i s hrst
  exact ⟨resetStep s, exec_reset i hrst, ⟨rfl, rfl, rfl, rfl, rfl, rfl⟩, ⟨rfl, rfl⟩, ⟨rfl, rfl, rfl, rfl⟩,
    ⟨rfl, rfl, rfl⟩, ⟨rfl, rfl, rfl, rfl, rfl⟩, Memory.read_nil, ⟨rfl, rfl⟩, ⟨rfl, rfl, rfl, rfl⟩, ⟨rfl, rfl⟩⟩

end Sys2Proof.Machine
end
